-- ==== Sys2Proof/Word.lean ====
section
/-!
DEFINITION. The word types of the CHIP-8 core and the one widening the spec uses (spec/00_scope.md R7 to R10).
-/

namespace Sys2Proof

/-- One byte: a register, a memory cell, an immediate NN. -/
abbrev Byte := BitVec 8

/-- One 16-bit word: an instruction, PC, I, a stack slot. -/
abbrev Word := BitVec 16

/-- One nibble: a register index X or Y, a row count N (R8). -/
abbrev Nibble := BitVec 4

/-- A 12-bit address field NNN (R8). -/
abbrev Addr := BitVec 12

/-- `zext_16(v)` of R10: every immediate is zero-extended. -/
abbrev zext16 {n : Nat} (v : BitVec n) : Word := v.setWidth 16

end Sys2Proof
end

