-- ==== Sys2Proof/Config.lean ====
section
/-!
DEFINITION. What is fixed for a machine (spec/00_scope.md R6): sizes, the parameters the spec leaves open,
the font, the host's inputs of one frame step, and the free values.
-/

namespace Sys2Proof

/-- `VF_ORDER` (R71, 92 D4): in which order a flag producer reads its operands and writes VF and VX. -/
inductive VfOrder where
  | sequential
  | latchedVfFirst
  | latchedVfLast
  deriving DecidableEq, Repr, Inhabited

/-- `KEY_PICK` (R98, 92 D11): which pressed key FX0A stores when several are down. -/
inductive KeyPick where
  | anyPressed
  | lowest
  deriving DecidableEq, Repr, Inhabited

/-- `UNKNOWN_POLICY` (R107, 92 D20): what an unknown word does. -/
inductive UnknownPolicy where
  | noop
  | refuse
  deriving DecidableEq, Repr, Inhabited

/-- The parameters of R6 that a running core reads. They are plain data in `State.params`; no step changes them
(DESIGN CHOICE, log 1), so a statement about every state is a statement about every value of them. -/
structure Params where
  vfOrder : VfOrder
  logicClearsVf : Bool
  timersDuringKeywait : Bool
  keyPick : KeyPick
  unknownPolicy : UnknownPolicy
  /-- `STACK_SLOT_WIDTH` in bits (92 D17; log 11) -/
  stackSlotWidth : Nat
  deriving DecidableEq, Repr, Inhabited

/-- What the host hands over at one frame step (R15): `keys[15:0]`, `now_ms`, `rand8[7:0]`, `quit`. -/
structure FrameIn where
  keys : BitVec 16
  nowMs : Nat
  rand8 : Byte
  quit : Bool
  deriving DecidableEq, Repr, Inhabited

/-- The defaults of R6 (92 D4, D5, D12, D11, D20, D17). -/
def Config.defaultParams : Params :=
  { vfOrder := .sequential, logicClearsVf := true, timersDuringKeywait := false,
    keyPick := .anyPressed, unknownPolicy := .noop, stackSlotWidth := 16 }

/-- `MEM_SIZE`: addresses 0x000 to 0xFFF (R37). -/
def Config.memSize : Nat := 4096

/-- `FONT_BASE` (R38). -/
def Config.fontBase : Nat := 0x050

/-- `PROGRAM_BASE` (R38, R47). -/
def Config.programBase : Nat := 0x200

/-- `ROM_MAX`: bytes of the image past this are dropped (R47). -/
def Config.romMax : Nat := 3584

/-- `PC_RESET` (R6, 92 D2). -/
def Config.pcReset : Word := 0x200#16

/-- `TICK_DECI_MS`: one tick is 16.6 ms; ACC counts 1/166 of a tick (R25, R116). -/
def Config.tickUnits : Nat := 166

/-- ACC gains this many units per millisecond (R116). -/
def Config.unitsPerMs : Nat := 10

/-- What reset is given (R6, R122): the parameters, `FONT`, the image `rom`, the clock value `T0`, `PC_RESET`. -/
structure Launch where
  params : Params
  font : Vector Byte 80
  rom : List Byte
  t0 : Nat
  pcReset : Word
  deriving DecidableEq, Repr

/-- FREE VALUE (log 2): the host's inputs at the n-th frame step, where `State.inputs` lists none. Nothing
constrains it: not the host's duty of a monotonic clock either. -/
opaque Config.hostFrame : Nat → FrameIn

/-- FREE VALUE (log 5): the draw by which `KEY_PICK = any` chooses among several pressed keys at the n-th
frame step (R98, 92 D11). -/
opaque Config.keyDraw : Nat → Nat

end Sys2Proof
end

