-- ==== Sys2Proof/Syntax.lean ====
section
/-!
DEFINITION. The instructions: one constructor per row of spec/opcode_table.json, in the table's order
(spec/30_encoding.md R56). Operands are the decoded fields of R54.
-/

namespace Sys2Proof

inductive Instr where
  /-- 00E0 CLS -/
  | cls
  /-- 00EE RET -/
  | ret
  /-- 1NNN JP addr -/
  | jp (nnn : Addr)
  /-- 2NNN CALL addr -/
  | call (nnn : Addr)
  /-- 3XNN SE Vx, byte -/
  | seImm (x : Nibble) (nn : Byte)
  /-- 4XNN SNE Vx, byte -/
  | sneImm (x : Nibble) (nn : Byte)
  /-- 5XY0 SE Vx, Vy -/
  | seReg (x y : Nibble)
  /-- 6XNN LD Vx, byte -/
  | ldImm (x : Nibble) (nn : Byte)
  /-- 7XNN ADD Vx, byte -/
  | addImm (x : Nibble) (nn : Byte)
  /-- 8XY0 LD Vx, Vy -/
  | ldReg (x y : Nibble)
  /-- 8XY1 OR Vx, Vy -/
  | orReg (x y : Nibble)
  /-- 8XY2 AND Vx, Vy -/
  | andReg (x y : Nibble)
  /-- 8XY3 XOR Vx, Vy -/
  | xorReg (x y : Nibble)
  /-- 8XY4 ADD Vx, Vy -/
  | addReg (x y : Nibble)
  /-- 8XY5 SUB Vx, Vy -/
  | sub (x y : Nibble)
  /-- 8XY6 SHR Vx, Vy -/
  | shr (x y : Nibble)
  /-- 8XY7 SUBN Vx, Vy -/
  | subn (x y : Nibble)
  /-- 8XYE SHL Vx, Vy -/
  | shl (x y : Nibble)
  /-- 9XY0 SNE Vx, Vy -/
  | sneReg (x y : Nibble)
  /-- 9XYn SNE.Q Vx, Vy, n (n not 0): the malformed 9-family word (log 18) -/
  | sneQ (x y n : Nibble)
  /-- ANNN LD I, addr -/
  | ldI (nnn : Addr)
  /-- BNNN JP V0, addr -/
  | jpV0 (nnn : Addr)
  /-- CXNN RND Vx, byte -/
  | rnd (x : Nibble) (nn : Byte)
  /-- DXYN DRW Vx, Vy, nibble -/
  | drw (x y n : Nibble)
  /-- EX9E SKP Vx -/
  | skp (x : Nibble)
  /-- EXA1 SKNP Vx -/
  | sknp (x : Nibble)
  /-- FX07 LD Vx, DT -/
  | ldVxDt (x : Nibble)
  /-- FX0A LD Vx, K -/
  | ldVxK (x : Nibble)
  /-- FX15 LD DT, Vx -/
  | ldDtVx (x : Nibble)
  /-- FX18 LD ST, Vx -/
  | ldStVx (x : Nibble)
  /-- FX1E ADD I, Vx -/
  | addI (x : Nibble)
  /-- FX29 LD F, Vx -/
  | ldF (x : Nibble)
  /-- FX33 LD B, Vx -/
  | ldB (x : Nibble)
  /-- FX55 LD [I], Vx -/
  | ldMemVx (x : Nibble)
  /-- FX65 LD Vx, [I] -/
  | ldVxMem (x : Nibble)
  /-- anything else: the unknown word itself (log 18) -/
  | unknown (w : Word)
  deriving DecidableEq, Repr

end Sys2Proof
end

