-- ==== Sys2Proof/WellFormed.lean ====
section
/-!
DEFINITION. Which terms of Instr stand for a word of their own row: the quirk row's n is not 0
(spec/30_encoding.md R56), and an unknown word is one of the words R57 lists.
-/

namespace Sys2Proof

/-- The unknown words, family by family, exactly as R57 lists them. The definition uses plain arithmetic on the
word and nothing of the decoder, so that the decoder can be held against it. -/
def isUnknownWord (w : Word) : Bool :=
  let n := w.toNat
  let family := n / 0x1000
  (family == 0x0 && n != 0x00E0 && n != 0x00EE) ||
  (family == 0x5 && n % 16 != 0) ||
  (family == 0x8 && [0x8, 0x9, 0xA, 0xB, 0xC, 0xD, 0xF].contains (n % 16)) ||
  (family == 0xE && !([0x9E, 0xA1].contains (n % 256))) ||
  (family == 0xF && !([0x07, 0x0A, 0x15, 0x18, 0x1E, 0x29, 0x33, 0x55, 0x65].contains (n % 256)))

/-- A term that some word decodes to. Every other operand is bounded by its type. -/
def Instr.wf : Instr → Bool
  | .sneQ _ _ n => n != 0
  | .unknown w => isUnknownWord w
  | _ => true

end Sys2Proof
end

