-- ==== Sys2Proof/Decode.lean ====
section
/-!
DEFINITION. The decoder, the encoder and the opcode map (spec/30_encoding.md R53 to R57, spec/00_scope.md R8).
-/

namespace Sys2Proof

/-! ### Fields (R8, R54) -/

/-- `n0 = w[15:12]`. -/
def n0 (w : Word) : Nibble := w.extractLsb' 12 4
/-- `n1 = w[11:8]`, the field X. -/
def n1 (w : Word) : Nibble := w.extractLsb' 8 4
/-- `n2 = w[7:4]`, the field Y. -/
def n2 (w : Word) : Nibble := w.extractLsb' 4 4
/-- `n3 = w[3:0]`, the field N. -/
def n3 (w : Word) : Nibble := w.extractLsb' 0 4

/-- The instruction word of four nibbles, n0 in the high bits (R53). -/
def wordOfNibbles (a b c d : Nibble) : Word := a ++ b ++ c ++ d

/-! ### Decoding (R55) -/

/-- The 8 family: the sub-operation is n3. -/
def decodeAlu (x y d : Nibble) : Instr :=
  match d with
  | 0x0#4 => .ldReg x y
  | 0x1#4 => .orReg x y
  | 0x2#4 => .andReg x y
  | 0x3#4 => .xorReg x y
  | 0x4#4 => .addReg x y
  | 0x5#4 => .sub x y
  | 0x6#4 => .shr x y
  | 0x7#4 => .subn x y
  | 0xE#4 => .shl x y
  | _ => .unknown (wordOfNibbles 0x8#4 x y d)

/-- The E family: the sub-operation is the low byte. -/
def decodeKey (x : Nibble) (kk : Byte) : Instr :=
  match kk with
  | 0x9E#8 => .skp x
  | 0xA1#8 => .sknp x
  | _ => .unknown (0xE#4 ++ x ++ kk)

/-- The F family: the sub-operation is the low byte. -/
def decodeMisc (x : Nibble) (kk : Byte) : Instr :=
  match kk with
  | 0x07#8 => .ldVxDt x
  | 0x0A#8 => .ldVxK x
  | 0x15#8 => .ldDtVx x
  | 0x18#8 => .ldStVx x
  | 0x1E#8 => .addI x
  | 0x29#8 => .ldF x
  | 0x33#8 => .ldB x
  | 0x55#8 => .ldMemVx x
  | 0x65#8 => .ldVxMem x
  | _ => .unknown (0xF#4 ++ x ++ kk)

/-- Dispatch on n0, then on the low nibble or byte, against the full patterns of R56 (92 D20). -/
def decodeNibbles (a b c d : Nibble) : Instr :=
  match a with
  | 0x0#4 =>
    if b = 0 ∧ c = 0xE ∧ d = 0x0 then .cls
    else if b = 0 ∧ c = 0xE ∧ d = 0xE then .ret
    else .unknown (wordOfNibbles a b c d)
  | 0x1#4 => .jp (b ++ c ++ d)
  | 0x2#4 => .call (b ++ c ++ d)
  | 0x3#4 => .seImm b (c ++ d)
  | 0x4#4 => .sneImm b (c ++ d)
  | 0x5#4 => if d = 0 then .seReg b c else .unknown (wordOfNibbles a b c d)
  | 0x6#4 => .ldImm b (c ++ d)
  | 0x7#4 => .addImm b (c ++ d)
  | 0x8#4 => decodeAlu b c d
  | 0x9#4 => if d = 0 then .sneReg b c else .sneQ b c d
  | 0xA#4 => .ldI (b ++ c ++ d)
  | 0xB#4 => .jpV0 (b ++ c ++ d)
  | 0xC#4 => .rnd b (c ++ d)
  | 0xD#4 => .drw b c d
  | 0xE#4 => decodeKey b (c ++ d)
  | _ => decodeMisc b (c ++ d)

/-- `Decode(w)`: total, "any 16-bit input decodes" (R55). -/
def decode (w : Word) : Instr := decodeNibbles (n0 w) (n1 w) (n2 w) (n3 w)

/-- Why bytes do not decode: the only way is that fewer than two are there (R59). -/
inductive DecodeError where
  | tooShort
  deriving DecidableEq, Repr

/-- The instruction at the head of a list of bytes, high byte first (R42), and the bytes after it. -/
def decodeBytes : List Byte → Except DecodeError (Instr × List Byte)
  | hi :: lo :: rest => .ok (decode (hi ++ lo), rest)
  | _ => .error .tooShort

/-- The bytes of a word as the hardware stores them: the high byte at the lower address (R42). -/
def bytesOfWord (w : Word) : List Byte := [w.extractLsb' 8 8, w.extractLsb' 0 8]

/-- The word whose bits are the low `nbits` bits of `w`, every bit above them 0. -/
def tableWord (nbits w : Nat) : Word := BitVec.ofNat 16 (w % 2 ^ nbits)

/-- The instruction the decoder reads from a word numbered as spec/opcode_table.json numbers it. -/
def decodeTableWord (nbits w : Nat) : Option Instr :=
  match decodeBytes (bytesOfWord (tableWord nbits w)) with
  | .ok (i, _) => some i
  | .error _ => none

/-! ### Encoding (R53, R56) -/

/-- The word of an instruction, field by field from the pattern column of R56. -/
def encode : Instr → Word
  | .cls => 0x00E0#16
  | .ret => 0x00EE#16
  | .jp nnn => 0x1#4 ++ nnn
  | .call nnn => 0x2#4 ++ nnn
  | .seImm x nn => 0x3#4 ++ x ++ nn
  | .sneImm x nn => 0x4#4 ++ x ++ nn
  | .seReg x y => 0x5#4 ++ x ++ y ++ 0x0#4
  | .ldImm x nn => 0x6#4 ++ x ++ nn
  | .addImm x nn => 0x7#4 ++ x ++ nn
  | .ldReg x y => 0x8#4 ++ x ++ y ++ 0x0#4
  | .orReg x y => 0x8#4 ++ x ++ y ++ 0x1#4
  | .andReg x y => 0x8#4 ++ x ++ y ++ 0x2#4
  | .xorReg x y => 0x8#4 ++ x ++ y ++ 0x3#4
  | .addReg x y => 0x8#4 ++ x ++ y ++ 0x4#4
  | .sub x y => 0x8#4 ++ x ++ y ++ 0x5#4
  | .shr x y => 0x8#4 ++ x ++ y ++ 0x6#4
  | .subn x y => 0x8#4 ++ x ++ y ++ 0x7#4
  | .shl x y => 0x8#4 ++ x ++ y ++ 0xE#4
  | .sneReg x y => 0x9#4 ++ x ++ y ++ 0x0#4
  | .sneQ x y n => 0x9#4 ++ x ++ y ++ n
  | .ldI nnn => 0xA#4 ++ nnn
  | .jpV0 nnn => 0xB#4 ++ nnn
  | .rnd x nn => 0xC#4 ++ x ++ nn
  | .drw x y n => 0xD#4 ++ x ++ y ++ n
  | .skp x => 0xE#4 ++ x ++ 0x9E#8
  | .sknp x => 0xE#4 ++ x ++ 0xA1#8
  | .ldVxDt x => 0xF#4 ++ x ++ 0x07#8
  | .ldVxK x => 0xF#4 ++ x ++ 0x0A#8
  | .ldDtVx x => 0xF#4 ++ x ++ 0x15#8
  | .ldStVx x => 0xF#4 ++ x ++ 0x18#8
  | .addI x => 0xF#4 ++ x ++ 0x1E#8
  | .ldF x => 0xF#4 ++ x ++ 0x29#8
  | .ldB x => 0xF#4 ++ x ++ 0x33#8
  | .ldMemVx x => 0xF#4 ++ x ++ 0x55#8
  | .ldVxMem x => 0xF#4 ++ x ++ 0x65#8
  | .unknown w => w

/-! ### The opcode map as data (R56), to hold the decoder against -/

/-- One row of R56: a word is the row's if `w and mask = pat`. -/
structure OpcodeRow where
  mask : Word
  pat : Word
  deriving DecidableEq, Repr

/-- A row matches w when `w and mask = match` (R55). -/
def OpcodeRow.matches (r : OpcodeRow) (w : Word) : Bool := w &&& r.mask == r.pat

/-- How many bits of the mask are one (R55). -/
def OpcodeRow.weight (r : OpcodeRow) : Nat := ((List.range 16).filter fun k => r.mask.getLsbD k).length

/-- The quirk row 9XYn. -/
def quirkRow : OpcodeRow := ⟨0xF000, 0x9000⟩

/-- The UNKNOWN row. -/
def unknownRow : OpcodeRow := ⟨0x0000, 0x0000⟩

/-- The 34 rows that R55 calls pairwise disjoint, in the table's order. -/
def instructionRows : List OpcodeRow :=
  [⟨0xFFFF, 0x00E0⟩, ⟨0xFFFF, 0x00EE⟩, ⟨0xF000, 0x1000⟩, ⟨0xF000, 0x2000⟩, ⟨0xF000, 0x3000⟩,
   ⟨0xF000, 0x4000⟩, ⟨0xF00F, 0x5000⟩, ⟨0xF000, 0x6000⟩, ⟨0xF000, 0x7000⟩, ⟨0xF00F, 0x8000⟩,
   ⟨0xF00F, 0x8001⟩, ⟨0xF00F, 0x8002⟩, ⟨0xF00F, 0x8003⟩, ⟨0xF00F, 0x8004⟩, ⟨0xF00F, 0x8005⟩,
   ⟨0xF00F, 0x8006⟩, ⟨0xF00F, 0x8007⟩] ++
  [⟨0xF00F, 0x800E⟩, ⟨0xF00F, 0x9000⟩, ⟨0xF000, 0xA000⟩, ⟨0xF000, 0xB000⟩, ⟨0xF000, 0xC000⟩,
   ⟨0xF000, 0xD000⟩, ⟨0xF0FF, 0xE09E⟩, ⟨0xF0FF, 0xE0A1⟩, ⟨0xF0FF, 0xF007⟩, ⟨0xF0FF, 0xF00A⟩,
   ⟨0xF0FF, 0xF015⟩, ⟨0xF0FF, 0xF018⟩, ⟨0xF0FF, 0xF01E⟩, ⟨0xF0FF, 0xF029⟩, ⟨0xF0FF, 0xF033⟩,
   ⟨0xF0FF, 0xF055⟩, ⟨0xF0FF, 0xF065⟩]

/-- All 36 rows of R56. -/
def opcodeMap : List OpcodeRow := instructionRows ++ [quirkRow, unknownRow]

/-- The row of R56 an instruction stands for. -/
def Instr.row : Instr → OpcodeRow
  | .cls => ⟨0xFFFF, 0x00E0⟩
  | .ret => ⟨0xFFFF, 0x00EE⟩
  | .jp _ => ⟨0xF000, 0x1000⟩
  | .call _ => ⟨0xF000, 0x2000⟩
  | .seImm _ _ => ⟨0xF000, 0x3000⟩
  | .sneImm _ _ => ⟨0xF000, 0x4000⟩
  | .seReg _ _ => ⟨0xF00F, 0x5000⟩
  | .ldImm _ _ => ⟨0xF000, 0x6000⟩
  | .addImm _ _ => ⟨0xF000, 0x7000⟩
  | .ldReg _ _ => ⟨0xF00F, 0x8000⟩
  | .orReg _ _ => ⟨0xF00F, 0x8001⟩
  | .andReg _ _ => ⟨0xF00F, 0x8002⟩
  | .xorReg _ _ => ⟨0xF00F, 0x8003⟩
  | .addReg _ _ => ⟨0xF00F, 0x8004⟩
  | .sub _ _ => ⟨0xF00F, 0x8005⟩
  | .shr _ _ => ⟨0xF00F, 0x8006⟩
  | .subn _ _ => ⟨0xF00F, 0x8007⟩
  | .shl _ _ => ⟨0xF00F, 0x800E⟩
  | .sneReg _ _ => ⟨0xF00F, 0x9000⟩
  | .sneQ _ _ _ => quirkRow
  | .ldI _ => ⟨0xF000, 0xA000⟩
  | .jpV0 _ => ⟨0xF000, 0xB000⟩
  | .rnd _ _ => ⟨0xF000, 0xC000⟩
  | .drw _ _ _ => ⟨0xF000, 0xD000⟩
  | .skp _ => ⟨0xF0FF, 0xE09E⟩
  | .sknp _ => ⟨0xF0FF, 0xE0A1⟩
  | .ldVxDt _ => ⟨0xF0FF, 0xF007⟩
  | .ldVxK _ => ⟨0xF0FF, 0xF00A⟩
  | .ldDtVx _ => ⟨0xF0FF, 0xF015⟩
  | .ldStVx _ => ⟨0xF0FF, 0xF018⟩
  | .addI _ => ⟨0xF0FF, 0xF01E⟩
  | .ldF _ => ⟨0xF0FF, 0xF029⟩
  | .ldB _ => ⟨0xF0FF, 0xF033⟩
  | .ldMemVx _ => ⟨0xF0FF, 0xF055⟩
  | .ldVxMem _ => ⟨0xF0FF, 0xF065⟩
  | .unknown _ => unknownRow

end Sys2Proof
end

