-- ==== Sys2Proof/Machine/State.lean ====
section
/-!
DEFINITION. The state of the core as plain data (spec/10_state.md R17 to R28, spec/20_memory.md R37), the ways a
step can stop, and the state after reset (R36).
-/

namespace Sys2Proof.Machine

/-- The fault codes of R109 (spec/60_exceptions.md), by name; their numbers are `FaultCode.number`. They are values of the machine's own mode, not stops of the
model: a core that meets one goes into the mode `faulted`, a next state. -/
inductive FaultCode where
  | fetchRange
  | dataRange
  | stackOverflow
  | stackUnderflow
  | keyRange
  deriving DecidableEq, Repr

/-- `MODE` (R26): the core's control state. `awaitingKey x` is FX0A waiting to write Vx; `faulted code info` and
`stopped` are terminal (R31). -/
inductive Mode where
  | running
  | awaitingKey (x : Nibble)
  | faulted (code : FaultCode) (info : Nat)
  | stopped
  deriving DecidableEq, Repr

/-- Why the model has no next state. -/
inductive Fault where
  /-- Raised by a frame step, and by the governor itself, when `now_ms < LAST_MS`: the host broke its duty and the
  frame step has no move (R125, R116, 92 D26). Safe: the model stops where the spec says there is no move (log 9). -/
  | clockBackwards
  /-- Raised by RET when SP is above 15, where no slot STACK[SP] exists (R21). No run from reset reaches such a
  state. Safe: the model stops (log 14). -/
  | stackSlotAbsent
  deriving DecidableEq, Repr

/-- Why an instruction is given no meaning. -/
inductive Refusal where
  /-- Raised by an arm of exec whose instruction has no meaning yet. Safe. No arm does so in this model. -/
  | notModelled (mnemonic : String)
  /-- Raised by an unknown word or the 9XYn quirk word under `UNKNOWN_POLICY = refuse` only, where the spec itself
  says refuse (R107, R69, 92 D20). Safe (log 15). -/
  | unknownOpcode (w : Word)
  deriving DecidableEq, Repr

/-- The one memory (R37): address and byte pairs in canonical form, addresses rising, no entry equal to what an
unlisted address reads as. -/
abbrev Memory := List Host.Cell

/-- The framebuffer (R23): row y of 32, column x of 64, true is on. -/
abbrev Framebuffer := Vector (Vector Bool 64) 32

/-- The whole state. The last three fields are the model's own (log 1, log 2). -/
structure State where
  /-- V0..VF (R17) -/
  v : Vector Byte 16
  /-- the index register I (R19) -/
  i : Word
  /-- the program counter (R20) -/
  pc : Word
  /-- the stack pointer (R21) -/
  sp : Byte
  /-- STACK[0..15] (R21): each slot holds a value of STACK_SLOT_WIDTH bits, read as a 16-bit word (log 11) -/
  stack : Vector Word 16
  /-- the delay timer DT (R22) -/
  dt : Byte
  /-- the sound timer ST (R22) -/
  st : Byte
  /-- MEM (R37) -/
  mem : Memory
  /-- FB (R23); also the output port `fb` (R16) -/
  fb : Framebuffer
  /-- LATCH, bit k is key k (R24) -/
  latch : BitVec 16
  /-- the governor's accumulator ACC in units of 1/166 tick (R25) -/
  acc : Nat
  /-- LAST_MS, the clock at the last governor run (R25) -/
  lastMs : Nat
  /-- MODE (R26); also the output port `mode` (R16) -/
  mode : Mode
  /-- the output port `frame_done` (R16): the last frame step ended in Running -/
  frameDone : Bool
  /-- the output port `dbg_unknown` (R16, R120): the last frame step executed an unknown opcode -/
  dbgUnknown : Bool
  /-- the input port `rand8` as the current frame step sampled it (R15, R84; log 3) -/
  rand8 : Byte
  /-- MODEL: the parameters of R6; no step changes them (log 1) -/
  params : Params
  /-- MODEL: the frame steps the host has lined up, oldest first (R15, R29; log 2) -/
  inputs : List FrameIn
  /-- MODEL: how many frame inputs have been taken; the argument of the free values (log 2, log 5) -/
  frame : Nat
  deriving DecidableEq, Repr

/-- The machine right after reset with the default launch (R36, R122): no image, the clock at 0, the parameters of
R6 at their defaults. The port fields and the model's own fields are DESIGN CHOICE (log 2, log 3, log 4, log 8). -/
def State.reset : State :=
  { v := Vector.replicate 16 0x00#8
    i := 0x0000#16
    pc := 0x200#16
    sp := 0x00#8
    stack := Vector.replicate 16 0x0000#16
    dt := 0x00#8
    st := 0x00#8
    mem := []
    fb := Vector.replicate 32 (Vector.replicate 64 false)
    latch := 0x0000#16
    acc := 0
    lastMs := 0
    mode := .running
    frameDone := false
    dbgUnknown := false
    rand8 := 0x00#8
    params := Config.defaultParams
    inputs := []
    frame := 0 }

end Sys2Proof.Machine
end

