-- ==== Sys2Proof/Machine/Ops.lean ====
section
/-!
DEFINITION. The named operations over memory, registers, stack and mode, and taking a fault
(spec/20_memory.md R37 to R48, spec/10_state.md R17 to R34, spec/60_exceptions.md R109, R110).
-/

namespace Sys2Proof.Machine

/-- What executing an instruction, or a frame step, answers. -/
abbrev Result := Host.Outcome State Fault Refusal

/-! ### Memory contents -/

/-- The default of `FONT`, the standard CHIP-8 font, one line per two glyphs (R46, 92 D18).
PRESUMED by the spec from general knowledge (93 G1; log 7). -/
def fontBytes : List Byte :=
  [0xF0, 0x90, 0x90, 0x90, 0xF0, 0x20, 0x60, 0x20, 0x20, 0x70] ++
  [0xF0, 0x10, 0xF0, 0x80, 0xF0, 0xF0, 0x10, 0xF0, 0x10, 0xF0] ++
  [0x90, 0x90, 0xF0, 0x10, 0x10, 0xF0, 0x80, 0xF0, 0x10, 0xF0] ++
  [0xF0, 0x80, 0xF0, 0x90, 0xF0, 0xF0, 0x10, 0x20, 0x40, 0x40] ++
  [0xF0, 0x90, 0xF0, 0x90, 0xF0, 0xF0, 0x90, 0xF0, 0x10, 0xF0] ++
  [0xF0, 0x90, 0xF0, 0x90, 0x90, 0xE0, 0x90, 0xE0, 0x90, 0xE0] ++
  [0xF0, 0x80, 0x80, 0x80, 0xF0, 0xE0, 0x90, 0x90, 0x90, 0xE0] ++
  [0xF0, 0x80, 0xF0, 0x80, 0xF0, 0xF0, 0x80, 0xF0, 0x80, 0x80]

/-- The 80 font bytes as the argument type of a launch. -/
def font : Vector Byte 80 := ⟨fontBytes.toArray, rfl⟩

/-- What an address that memory does not list reads as: the reset contents of R36 and R38 for the default launch,
the font at 0x050..0x09F and zero everywhere else. -/
def Memory.unlisted (a : Nat) : Byte :=
  if Config.fontBase ≤ a ∧ a < Config.fontBase + 80 then fontBytes.getD (a - Config.fontBase) 0 else 0

/-- The byte at an address. -/
def Memory.get : Memory → Nat → Byte
  | [], a => Memory.unlisted a
  | (b, x) :: m, a => if a = b then x else Memory.get m a

/-- Put one cell in front of a memory, unless it says what an unlisted address says anyway. -/
def Memory.consCell (a : Nat) (x : Byte) (m : Memory) : Memory :=
  if x = Memory.unlisted a then m else (a, x) :: m

/-- Write the byte at an address, keeping the canonical form (R41, R48). -/
def Memory.set : Memory → Nat → Byte → Memory
  | [], a, x => Memory.consCell a x []
  | (b, y) :: m, a, x =>
    if a < b then Memory.consCell a x ((b, y) :: m)
    else if a = b then Memory.consCell a x m
    else (b, y) :: Memory.set m a x

/-- The canonical form: every listed address is at least `lo` and inside MEM, addresses strictly rise, and no entry
equals what an unlisted address reads as. -/
def Memory.wfFrom : Nat → Memory → Bool
  | _, [] => true
  | lo, (a, x) :: m =>
    decide (lo ≤ a) && decide (a < Config.memSize) && decide (x ≠ Memory.unlisted a) && Memory.wfFrom (a + 1) m

/-- The canonical form of the whole memory. -/
abbrev Memory.wf (m : Memory) : Bool := Memory.wfFrom 0 m

/-- `len` bytes from `base` up, in ascending order (R45). -/
def Memory.getBytes (m : Memory) : Nat → Nat → List Byte
  | _, 0 => []
  | base, len + 1 => Memory.get m base :: Memory.getBytes m (base + 1) len

/-- Write bytes from `base` up, in ascending order (R45). -/
def Memory.setBytes (m : Memory) : Nat → List Byte → Memory
  | _, [] => m
  | base, x :: xs => Memory.setBytes (Memory.set m base x) (base + 1) xs

/-- The range check of an access of `len` bytes from `base`, both unbounded naturals (R40, 92 D8, D22): the lowest
address of the access above 0xFFF, if there is one (R109, R112). -/
def outOfRange (base len : Nat) : Option Nat :=
  if len > 0 ∧ base + len - 1 > 0xFFF then some (max base 0x1000) else none

/-- `MemRead` of a run of bytes, checked as a whole before any is read (R40, R45): the bytes, or the lowest
out-of-range address. -/
def readBlock (m : Memory) (base len : Nat) : Except Nat (List Byte) :=
  match outOfRange base len with
  | some a => .error a
  | none => .ok (Memory.getBytes m base len)

/-- `MemWrite` of a run of bytes, checked as a whole before any is written (R41, R45): the memory after, or the
lowest out-of-range address. -/
def writeBlock (m : Memory) (base : Nat) (xs : List Byte) : Except Nat Memory :=
  match outOfRange base xs.length with
  | some a => .error a
  | none => .ok (Memory.setBytes m base xs)

/-- The word at an address, high byte first (R42). -/
def fetchWord (m : Memory) (a : Nat) : Word := Memory.get m a ++ Memory.get m (a + 1)

/-! ### Registers (R17 to R22) -/

/-- VF, the flag register (R18). -/
def vf : Nibble := 0xF#4

/-- `V[r]` (R10). -/
def State.getV (s : State) (r : Nibble) : Byte := s.v[r.toNat]

/-- `V[r] <- x` (R10). No register is hard-wired (R17). -/
def State.setV (s : State) (r : Nibble) (x : Byte) : State := { s with v := s.v.set r.toNat x }

/-- V0..V(n-1), in ascending order. -/
def State.firstRegs (s : State) (n : Nat) : List Byte := s.v.toList.take n

/-- Write consecutive registers from number `k` up, in ascending order; numbers above 15 name no register. -/
def State.setRegsFrom (s : State) : Nat → List Byte → State
  | _, [] => s
  | k, x :: xs => State.setRegsFrom { s with v := s.v.setIfInBounds k x } (k + 1) xs

/-- `I <- w`. -/
def State.setI (s : State) (w : Word) : State := { s with i := w }

/-- `DT <- x`. -/
def State.setDt (s : State) (x : Byte) : State := { s with dt := x }

/-- `ST <- x`. -/
def State.setSt (s : State) (x : Byte) : State := { s with st := x }

/-- Replace memory. -/
def State.setMem (s : State) (m : Memory) : State := { s with mem := m }

/-- Replace the framebuffer. -/
def State.setFb (s : State) (fb : Framebuffer) : State := { s with fb := fb }

/-- `MODE <- m`. -/
def State.setMode (s : State) (m : Mode) : State := { s with mode := m }

/-- `dbg_unknown <- 1` (R16, R69, R107). -/
def State.markUnknown (s : State) : State := { s with dbgUnknown := true }

/-! ### The program counter (R20, R33, R34) -/

/-- `PC <- target`. -/
def State.setPc (s : State) (w : Word) : State := { s with pc := w }

/-- The default advance, `PC <- (PC + 2) mod 65536` (R33). -/
def State.advance (s : State) : State := s.setPc (s.pc + 2#16)

/-- `skip` (R10): the same addition, done inside the instruction before the default advance. -/
def State.skip (s : State) : State := s.setPc (s.pc + 2#16)

/-- An instruction that only changes the state: its effect, then the default advance (R33). -/
def continueWith (s : State) : Result := .next s.advance

/-- A conditional skip: `if c then skip`, then the default advance. -/
def skipIf (c : Bool) (s : State) : Result := continueWith (if c then s.skip else s)

/-! ### The call stack (R21, R61, R63) -/

/-- What a slot of `width` bits holds of a word written to it: its low bits. A slot of 16 bits or more holds all of
it (R6 STACK_SLOT_WIDTH, 92 D17; DEDUCED, log 11). -/
def slotValue (width : Nat) (w : Word) : Word := BitVec.ofNat 16 (w.toNat % 2 ^ width)

/-- `SP <- SP + 1; STACK[SP] <- w`. -/
def State.push (s : State) (w : Word) : State :=
  { s with
    sp := s.sp + 1#8
    stack := s.stack.setIfInBounds (s.sp.toNat + 1) (slotValue s.params.stackSlotWidth w) }

/-- `SP <- SP - 1`; the popped slot keeps its value (R61). -/
def State.dropTop (s : State) : State := { s with sp := s.sp - 1#8 }

/-- `STACK[SP]`, or nothing where SP names no slot. -/
def State.top? (s : State) : Option Word := s.stack[s.sp.toNat]?

/-! ### Taking a fault (R32, R109, R110) -/

/-- The code number of a fault in the table of R109 (92 D6). -/
def FaultCode.number : FaultCode → Nat
  | .fetchRange => 1
  | .dataRange => 2
  | .stackOverflow => 3
  | .stackUnderflow => 4
  | .keyRange => 5

/-- The fault code the output port `mode` carries: a number in Faulted only (R16). -/
def Mode.portCode : Mode → Option Nat
  | .running => none
  | .awaitingKey _ => none
  | .faulted code _ => some code.number
  | .stopped => none

/-- `MODE <- Faulted(code, info)`. Nothing else changes: the instruction's writes are discarded, PC keeps the
faulting instruction's address, nothing is saved and control goes nowhere (R110). There is no return from a fault
(R111), so there is no operation for one. -/
def State.takeFault (s : State) (code : FaultCode) (info : Nat) : State := s.setMode (.faulted code info)

/-- `raise Fault(code, info)` from the state before the instruction's writes. The answer is a next state, in the
mode `faulted` (log 6). -/
def raise (code : FaultCode) (info : Nat) (s : State) : Result := .next (s.takeFault code info)

/-! ### The key mux (R98) -/

/-- The keys down in a latch, lowest first. -/
def pressedKeys (latch : BitVec 16) : List Nat := (List.range 16).filter fun k => latch.getLsbD k

/-- The element a draw chooses from a list: any element is chosen by some draw. -/
def chooseBy (draw : Nat) : List Nat → Option Nat
  | [] => none
  | [k] => some k
  | ks => ks[draw % ks.length]?

/-- `KeyPick(LATCH)`: nothing if no key is down; under `lowest` the lowest pressed key; under `any` a pressed key
chosen by the free value `Config.keyDraw` at this frame step (R98, 92 D11; log 5). -/
def State.keyPick? (s : State) : Option Nat :=
  match s.params.keyPick with
  | .lowest => (pressedKeys s.latch).head?
  | .anyPressed => chooseBy (Config.keyDraw s.frame) (pressedKeys s.latch)

end Sys2Proof.Machine
end

