-- ==== Sys2Proof/Machine/Operands.lean ====
section
/-!
DEFINITION. The operand forms: the addressing modes of spec/42_index_memory.md R85 and the effective addresses of
the memory accesses (spec/20_memory.md R40, R45).
-/

namespace Sys2Proof.Machine

/-- The absolute target of 1NNN, 2NNN and ANNN (R54, R85). -/
def absolute (nnn : Addr) : Word := zext16 nnn

/-- The target of BNNN: `zext_16(NNN) + V[0]`, V0 whatever n1 holds (R64). -/
def absolutePlusV0 (nnn : Addr) (s : State) : Word := zext16 nnn + zext16 (s.getV 0#4)

/-- The base of an I-indirect access as an unbounded natural (R40, R85). -/
def indexBase (s : State) : Nat := s.i.toNat

/-- How many bytes FX55 and FX65 move: V0..VX (R90, R91). -/
def regCount (x : Nibble) : Nat := x.toNat + 1

/-- I after FX55 or FX65: `(I + X + 1) mod 65536` (R90, R91). -/
def indexAfter (x : Nibble) (s : State) : Word := s.i + BitVec.ofNat 16 (regCount x)

/-- The address of the glyph of VX, not masked: `0x050 + 5 * V[X]` (R88). -/
def glyphAddress (b : Byte) : Word := 0x050#16 + 5#16 * zext16 b

/-- The three decimal digits of a byte, hundreds first (R89). -/
def bcdDigits (b : Byte) : List Byte := [b / 100#8, (b / 10#8) % 10#8, b % 10#8]

/-- An instruction that reads `len` bytes from I: DATA_RANGE before any effect, or go on with the bytes
(R40, R109). -/
def withBytesAtI (len : Nat) (s : State) (k : List Byte → Result) : Result :=
  match readBlock s.mem (indexBase s) len with
  | .error a => raise .dataRange a s
  | .ok bytes => k bytes

/-- An instruction that writes bytes from I: DATA_RANGE before any effect, or go on with memory written
(R41, R109). -/
def storingAtI (xs : List Byte) (s : State) (k : State → Result) : Result :=
  match writeBlock s.mem (indexBase s) xs with
  | .error a => raise .dataRange a s
  | .ok m => k (s.setMem m)

/-- The key index of EX9E and EXA1: `KEY_RANGE` if VX is above 15, or go on with whether that key is down
(R98 to R100). -/
def withSelectedKey (x : Nibble) (s : State) (k : Bool → Result) : Result :=
  if (s.getV x).toNat > 15 then raise .keyRange (s.getV x).toNat s
  else k (s.latch.getLsbD (s.getV x).toNat)

end Sys2Proof.Machine
end

