-- ==== Sys2Proof/Machine/Flags.lean ====
section
/-!
DEFINITION. Every flag computation (spec/41_alu.md R70) and the order of the VF and VX writes (R71).
-/

namespace Sys2Proof.Machine

/-- A flag as the byte VF holds: 1 or 0. -/
def flagByte (b : Bool) : Byte := if b then 0x01#8 else 0x00#8

/-- Carry of 8XY4: the unsigned sum exceeds 255. -/
def carryFlag (a b : Byte) : Byte := flagByte (decide (a.toNat + b.toNat > 255))

/-- No-borrow of 8XY5: the minuend a is strictly greater than b. -/
def noBorrowFlag (a b : Byte) : Byte := flagByte (decide (a.toNat > b.toNat))

/-- The bit shifted out by 8XY6. -/
def shiftOutLow (b : Byte) : Byte := b &&& 0x01#8

/-- The bit shifted out by 8XYE. -/
def shiftOutHigh (b : Byte) : Byte := b >>> 7

/-- A flag producer (R71): from `a = VX` and `b = VY` the flag `f a b` goes to VF and the result `r a b` to VX, in
the order `VF_ORDER` names; under `sequential` the result reads VX and VY again after VF is written. -/
def writeFlagged (f r : Byte → Byte → Byte) (x y : Nibble) (s : State) : State :=
  let a := s.getV x
  let b := s.getV y
  match s.params.vfOrder with
  | .sequential =>
    let s' := s.setV vf (f a b)
    s'.setV x (r (s'.getV x) (s'.getV y))
  | .latchedVfFirst => (s.setV vf (f a b)).setV x (r a b)
  | .latchedVfLast => (s.setV x (r a b)).setV vf (f a b)

/-- A bitwise operation of 8XY1 to 8XY3 (R76 to R78): VF is cleared when `LOGIC_CLEARS_VF`, untouched otherwise. -/
def writeLogic (r : Byte → Byte → Byte) (x y : Nibble) (s : State) : State :=
  if s.params.logicClearsVf then writeFlagged (fun _ _ => 0x00#8) r x y s
  else s.setV x (r (s.getV x) (s.getV y))

end Sys2Proof.Machine
end

