-- ==== Sys2Proof/Machine/Alu.lean ====
section
/-!
DEFINITION. Register loads and the ALU (spec/41_alu.md R73 to R84).
-/

namespace Sys2Proof.Machine

/-- LD Vx, byte (R73). -/
def execLdImm (x : Nibble) (nn : Byte) (s : State) : Result := continueWith (s.setV x nn)

/-- ADD Vx, byte (R74): wraps, no flag. -/
def execAddImm (x : Nibble) (nn : Byte) (s : State) : Result := continueWith (s.setV x (s.getV x + nn))

/-- LD Vx, Vy (R75). -/
def execLdReg (x y : Nibble) (s : State) : Result := continueWith (s.setV x (s.getV y))

/-- OR Vx, Vy (R76). -/
def execOrReg (x y : Nibble) (s : State) : Result := continueWith (writeLogic (· ||| ·) x y s)

/-- AND Vx, Vy (R77). -/
def execAndReg (x y : Nibble) (s : State) : Result := continueWith (writeLogic (· &&& ·) x y s)

/-- XOR Vx, Vy (R78). -/
def execXorReg (x y : Nibble) (s : State) : Result := continueWith (writeLogic (· ^^^ ·) x y s)

/-- ADD Vx, Vy (R79). -/
def execAddReg (x y : Nibble) (s : State) : Result := continueWith (writeFlagged carryFlag (· + ·) x y s)

/-- SUB Vx, Vy (R80): VX minus VY. -/
def execSub (x y : Nibble) (s : State) : Result := continueWith (writeFlagged noBorrowFlag (· - ·) x y s)

/-- SHR Vx, Vy (R81): the source is VY. -/
def execShr (x y : Nibble) (s : State) : Result :=
  continueWith (writeFlagged (fun _ b => shiftOutLow b) (fun _ b => b >>> 1) x y s)

/-- SUBN Vx, Vy (R82): VY minus VX. -/
def execSubn (x y : Nibble) (s : State) : Result :=
  continueWith (writeFlagged (fun a b => noBorrowFlag b a) (fun a b => b - a) x y s)

/-- SHL Vx, Vy (R83): the source is VY. -/
def execShl (x y : Nibble) (s : State) : Result :=
  continueWith (writeFlagged (fun _ b => shiftOutHigh b) (fun _ b => b <<< 1) x y s)

/-- RND Vx, byte (R84): the byte this frame step sampled from the port `rand8`, masked. -/
def execRnd (x : Nibble) (nn : Byte) (s : State) : Result := continueWith (s.setV x (s.rand8 &&& nn))

end Sys2Proof.Machine
end

