-- ==== Sys2Proof/Machine/Display.lean ====
section
/-!
DEFINITION. The framebuffer controller and its two instructions (spec/43_display.md R92 to R97).
-/

namespace Sys2Proof.Machine

/-- `FB[x][y]`; off outside the grid. -/
def Framebuffer.pixel (fb : Framebuffer) (x y : Nat) : Bool :=
  match fb[y]? with
  | some row => row[x]?.getD false
  | none => false

/-- `FB[x][y] <- b`; no pixel outside the grid is written. -/
def Framebuffer.setPixel (fb : Framebuffer) (x y : Nat) (b : Bool) : Framebuffer :=
  match fb[y]? with
  | some row => fb.setIfInBounds y (row.setIfInBounds x b)
  | none => fb

/-- Every pixel off (R96). -/
def Framebuffer.blank : Framebuffer := Vector.replicate 32 (Vector.replicate 64 false)

/-- A drawing under way: the grid and whether a pixel has collided so far (R95). -/
structure Drawing where
  fb : Framebuffer
  collided : Bool
  deriving DecidableEq, Repr

/-- One sprite bit at (x, y): a 1 inside the grid flips the pixel, and collides if the pixel was on; a 0 and a
clipped bit do nothing (R94, R95). -/
def plot (x y : Nat) (bit : Bool) (d : Drawing) : Drawing :=
  if bit && decide (x < 64) && decide (y < 32) then
    { fb := Framebuffer.setPixel d.fb x y (!Framebuffer.pixel d.fb x y)
      collided := d.collided || Framebuffer.pixel d.fb x y }
  else d

/-- One sprite row: column c is bit 7 - c of the byte (R93; PRESUMED by the spec, 92 D19; log 13), columns 0 to 7 in
order. -/
def plotRow (x0 y : Nat) (row : Byte) (d : Drawing) : Drawing :=
  (List.range 8).foldl (fun d c => plot (x0 + c) y (row.getLsbD (7 - c)) d) d

/-- The rows of a sprite from y down, in order. -/
def plotRows (x0 : Nat) : Nat → List Byte → Drawing → Drawing
  | _, [], d => d
  | y, row :: rows, d => plotRows x0 (y + 1) rows (plotRow x0 y row d)

/-- The state VX and VY are read from as coordinates: after VF is cleared under `sequential`, before it under the
latched orders (R97, R71). -/
def coordinateState (s : State) : State :=
  match s.params.vfOrder with
  | .sequential => s.setV vf 0x00#8
  | .latchedVfFirst => s
  | .latchedVfLast => s

/-- The origin (VX mod 64, VY mod 32) (R94). -/
def spriteOrigin (x y : Nibble) (s : State) : Nat × Nat :=
  ((((coordinateState s).getV x).toNat) % 64, (((coordinateState s).getV y).toNat) % 32)

/-- CLS (R96). -/
def execCls (s : State) : Result := continueWith (s.setFb Framebuffer.blank)

/-- DRW Vx, Vy, nibble (R97): all N rows are read and checked, even the clipped ones (92 D23). -/
def execDrw (x y n : Nibble) (s : State) : Result :=
  withBytesAtI n.toNat s fun rows =>
    let o := spriteOrigin x y s
    let d := plotRows o.1 o.2 rows { fb := s.fb, collided := false }
    continueWith ((s.setFb d.fb).setV vf (flagByte d.collided))

end Sys2Proof.Machine
end

