-- ==== Sys2Proof/Machine/Flow.lean ====
section
/-!
DEFINITION. Control transfer and skips (spec/40_flow.md R61 to R69).
-/

namespace Sys2Proof.Machine

/-- RET (R61). An SP above 15, which no run reaches, names no slot (log 14). -/
def execRet (s : State) : Result :=
  if s.sp = 0x00#8 then raise .stackUnderflow s.pc.toNat s
  else
    match s.top? with
    | none => .fault .stackSlotAbsent
    | some w => .next (s.dropTop.setPc w)

/-- JP addr (R62). -/
def execJp (nnn : Addr) (s : State) : Result := .next (s.setPc (absolute nnn))

/-- CALL addr (R63): the address after the CALL is pushed, into a slot of STACK_SLOT_WIDTH bits (R6). Any SP that would leave 0..15 overflows (R21; log 14). -/
def execCall (nnn : Addr) (s : State) : Result :=
  if s.sp.toNat ≥ 15 then raise .stackOverflow s.pc.toNat s
  else .next ((s.push (s.pc + 2#16)).setPc (absolute nnn))

/-- JP V0, addr (R64). -/
def execJpV0 (nnn : Addr) (s : State) : Result := .next (s.setPc (absolutePlusV0 nnn s))

/-- SE Vx, byte (R65). -/
def execSeImm (x : Nibble) (nn : Byte) (s : State) : Result := skipIf (s.getV x == nn) s

/-- SNE Vx, byte (R66). -/
def execSneImm (x : Nibble) (nn : Byte) (s : State) : Result := skipIf (s.getV x != nn) s

/-- SE Vx, Vy (R67). -/
def execSeReg (x y : Nibble) (s : State) : Result := skipIf (s.getV x == s.getV y) s

/-- SNE Vx, Vy (R68). -/
def execSneReg (x y : Nibble) (s : State) : Result := skipIf (s.getV x != s.getV y) s

/-- SNE.Q Vx, Vy, n (R69): the skip of 9XY0, and the word counts as unknown for the diagnostic; refused under
`UNKNOWN_POLICY = refuse` (92 D20). -/
def execSneQ (x y n : Nibble) (s : State) : Result :=
  match s.params.unknownPolicy with
  | .refuse => .refused (.unknownOpcode (0x9#4 ++ x ++ y ++ n))
  | .noop => skipIf (s.getV x != s.getV y) s.markUnknown

end Sys2Proof.Machine
end

