-- ==== Sys2Proof/Machine/Index.lean ====
section
/-!
DEFINITION. The index register and memory transfers (spec/42_index_memory.md R86 to R91).
-/

namespace Sys2Proof.Machine

/-- LD I, addr (R86). -/
def execLdI (nnn : Addr) (s : State) : Result := continueWith (s.setI (absolute nnn))

/-- ADD I, Vx (R87): modulo 65536, no flag. -/
def execAddI (x : Nibble) (s : State) : Result := continueWith (s.setI (s.i + zext16 (s.getV x)))

/-- LD F, Vx (R88). -/
def execLdF (x : Nibble) (s : State) : Result := continueWith (s.setI (glyphAddress (s.getV x)))

/-- LD B, Vx (R89): I is not changed. -/
def execLdB (x : Nibble) (s : State) : Result := storingAtI (bcdDigits (s.getV x)) s continueWith

/-- LD [I], Vx (R90). -/
def execLdMemVx (x : Nibble) (s : State) : Result :=
  storingAtI (s.firstRegs (regCount x)) s fun s' => continueWith (s'.setI (indexAfter x s))

/-- LD Vx, [I] (R91). -/
def execLdVxMem (x : Nibble) (s : State) : Result :=
  withBytesAtI (regCount x) s fun bytes => continueWith ((s.setRegsFrom 0 bytes).setI (indexAfter x s))

end Sys2Proof.Machine
end

