-- ==== Sys2Proof/Machine/Input.lean ====
section
/-!
DEFINITION. The input latch and timer instructions (spec/44_input_timers.md R99 to R104), and the unknown word
(spec/60_exceptions.md R107).
-/

namespace Sys2Proof.Machine

/-- SKP Vx (R99). -/
def execSkp (x : Nibble) (s : State) : Result := withSelectedKey x s fun down => skipIf down s

/-- SKNP Vx (R100). -/
def execSknp (x : Nibble) (s : State) : Result := withSelectedKey x s fun down => skipIf (!down) s

/-- LD Vx, K (R101): with a key down the index is stored at once; with none the core waits, PC staying here. -/
def execLdVxK (x : Nibble) (s : State) : Result :=
  match s.keyPick? with
  | some k => continueWith (s.setV x (BitVec.ofNat 8 k))
  | none => .next (s.setMode (.awaitingKey x))

/-- LD Vx, DT (R102). -/
def execLdVxDt (x : Nibble) (s : State) : Result := continueWith (s.setV x s.dt)

/-- LD DT, Vx (R103). -/
def execLdDtVx (x : Nibble) (s : State) : Result := continueWith (s.setDt (s.getV x))

/-- LD ST, Vx (R104). -/
def execLdStVx (x : Nibble) (s : State) : Result := continueWith (s.setSt (s.getV x))

/-- An unknown word (R107): the diagnostic and the default advance, or refused under `UNKNOWN_POLICY = refuse`. -/
def execUnknown (w : Word) (s : State) : Result :=
  match s.params.unknownPolicy with
  | .refuse => .refused (.unknownOpcode w)
  | .noop => continueWith s.markUnknown

end Sys2Proof.Machine
end

