-- ==== Sys2Proof/Machine/Reset.lean ====
section
/-!
DEFINITION. Reset with its launch inputs (spec/70_reset_and_hazards.md R122, spec/20_memory.md R46, R47).
-/

namespace Sys2Proof.Machine

/-- The launch `State.reset` stands for: every default of R6, an empty image, the clock at 0 (log 8). -/
def defaultLaunch : Launch :=
  { params := Config.defaultParams, font := font, rom := [], t0 := 0, pcReset := Config.pcReset }

/-- MEM after reset: the 80 bytes of FONT at 0x050, then the image at 0x200, cut at 3584 bytes (R47, R122). An
address that is written by neither reads as zero, since FONT covers all that `Memory.unlisted` has of the font. -/
def resetMemory (l : Launch) : Memory :=
  Memory.setBytes (Memory.setBytes [] Config.fontBase l.font.toList) Config.programBase (l.rom.take Config.romMax)

/-- `Reset(rom, T0)` of R122 under the parameters of R6. -/
def State.resetWith (l : Launch) : State :=
  { State.reset with mem := resetMemory l, pc := l.pcReset, lastMs := l.t0, params := l.params }

end Sys2Proof.Machine
end

