-- ==== Sys2Proof/Machine/Frame.lean ====
section
/-!
DEFINITION. The frame step: input refresh, the instruction cycle, the timing governor, the key wait
(spec/10_state.md R29 to R33, spec/60_exceptions.md R110, R112, R116).
-/

namespace Sys2Proof.Machine

/-! ### The host's inputs (R15; log 2) -/

/-- What the host hands over at this frame step: the first listed frame, or a free value where none is listed. -/
def State.nextFrame (s : State) : FrameIn :=
  match s.inputs with
  | f :: _ => f
  | [] => Config.hostFrame s.frame

/-- A frame step that takes the host's inputs: it has no move if the clock is below LAST_MS, whatever else it would
do (R125, 92 D26; log 9). -/
def withClock (s : State) (k : FrameIn → Result) : Result :=
  if s.nextFrame.nowMs < s.lastMs then .fault .clockBackwards else k s.nextFrame

/-- That frame taken; the output ports of the last frame step go low until this one sets them (R16; log 4). -/
def State.takeFrame (s : State) : State :=
  { s with inputs := s.inputs.tail, frame := s.frame + 1, frameDone := false, dbgUnknown := false }

/-- `LATCH <- keys` (R24, R29, R30). -/
def State.refreshLatch (s : State) (f : FrameIn) : State := { s with latch := f.keys }

/-- The state just after the latch refresh of a frame step in Running, the random byte sampled (R15, R29). -/
def State.openFrame (s : State) (f : FrameIn) : State := { s.takeFrame.refreshLatch f with rand8 := f.rand8 }

/-! ### The timing governor (R116) -/

/-- A timer's decay: saturating at zero (R22). -/
def decay (t : Byte) : Byte := if t = 0x00#8 then 0x00#8 else t - 1#8

/-- One governor run with a clock that has not gone backwards (R116): ACC gains 10 per ms exactly (92 D13; log 12),
and at most one decrement follows, whether or not the timers are zero. -/
def State.governed (s : State) (nowMs : Nat) : State :=
  let acc := s.acc + Config.unitsPerMs * (nowMs - s.lastMs)
  if Config.tickUnits ≤ acc then
    { s with acc := acc - Config.tickUnits, lastMs := nowMs, dt := decay s.dt, st := decay s.st }
  else { s with acc := acc, lastMs := nowMs }

/-- `Governor(now_ms)`: no step if the clock went backwards (92 D26; log 9). -/
def governor (nowMs : Nat) (s : State) : Result :=
  if nowMs < s.lastMs then .fault .clockBackwards else .next (s.governed nowMs)

/-- The end of a frame step or of a wait poll (R29, R30): the governor runs in Running, and in AwaitingKey under
`TIMERS_DURING_KEYWAIT`; frame_done goes high in Running only (R16); after a fault neither happens (R110). -/
def closeFrame (nowMs : Nat) (s : State) : Result :=
  match s.mode with
  | .running => governor nowMs { s with frameDone := true }
  | .awaitingKey _ => if s.params.timersDuringKeywait then governor nowMs s else .next s
  | .faulted _ _ => .next s
  | .stopped => .next s

/-! ### The instruction cycle (R32) -/

/-- `Cycle`: the fetch fault before decode, then fetch, decode, execute; `exec` makes the default advance (log 10). -/
def cycle (s : State) : Result :=
  if s.pc.toNat > 0xFFE then raise .fetchRange s.pc.toNat s
  else exec (decode (fetchWord s.mem s.pc.toNat)) s

/-- A frame step in Running (R29): quit first (92 D21; log 16), then the latch refresh, the cycle and the close. -/
def runningFrame (f : FrameIn) (s : State) : Result :=
  if f.quit then .next (s.takeFrame.setMode .stopped)
  else
    match cycle (s.openFrame f) with
    | .next t => closeFrame f.nowMs t
    | .fault r => .fault r
    | .refused r => .refused r

/-- A wait poll (R30): it ignores quit and rand8; a pressed key completes the waiting FX0A, its deferred default
advance included. -/
def waitPoll (f : FrameIn) (x : Nibble) (s : State) : Result :=
  let s' := s.takeFrame.refreshLatch f
  match s'.keyPick? with
  | some k => closeFrame f.nowMs (((s'.setV x (BitVec.ofNat 8 k)).advance).setMode .running)
  | none => closeFrame f.nowMs s'

/-- One frame step in every mode; Faulted and Stopped change nothing and take no input, the clock included (R29 to
R31, R125). -/
def frameStep (s : State) : Result :=
  match s.mode with
  | .running => withClock s fun f => runningFrame f s
  | .awaitingKey x => withClock s fun f => waitPoll f x s
  | .faulted _ _ => .next s
  | .stopped => .next s

end Sys2Proof.Machine
end

