-- ==== Sys2Proof/Machine/Step.lean ====
section
/-!
DEFINITION. One step of the machine: one frame step (spec/10_state.md R29), and how a probe places an instruction.
-/

namespace Sys2Proof.Machine

/-- The core moves only by frame steps (R29). -/
def step : State → Host.Outcome State Fault Refusal := frameStep

/-- The frame a probe lines up: no key, no time gone by, no quit. -/
def probeFrame (s : State) : FrameIn := { keys := 0x0000#16, nowMs := s.lastMs, rand8 := 0x00#8, quit := false }

/-- `s` with the word placed at PC, high byte first, and all that it takes for the very next step to run it: the mode
Running and one frame of the host at the head of the inputs (log 8). A PC above 0xFFE has no two bytes, and then
nothing is placed. -/
def State.withFetchWord (s : State) (nbits w : Nat) : State :=
  match writeBlock s.mem s.pc.toNat (bytesOfWord (tableWord nbits w)) with
  | .ok m => { s with mem := m, mode := .running, inputs := probeFrame s :: s.inputs }
  | .error _ => s

end Sys2Proof.Machine
end

