-- ==== Sys2Proof/Safety.lean ====
section
/-!
DEFINITION. The terms the statements are made in: what an instruction leaves unchanged, the invariant, when an
instruction faults, and the sprite and governor notions of the spec written without the machine's loops.
-/

namespace Sys2Proof.Machine

/-! ### Frames -/

/-- What an instruction may write, beside the program counter. -/
structure Footprint where
  /-- the registers -/
  regs : List Nibble := []
  /-- I -/
  index : Bool := false
  /-- SP -/
  stackPointer : Bool := false
  /-- the stack slot -/
  slot : Option Nat := none
  /-- DT -/
  delay : Bool := false
  /-- ST -/
  sound : Bool := false
  /-- the framebuffer -/
  display : Bool := false
  /-- the diagnostic output -/
  debug : Bool := false
  /-- the first address stored to -/
  storeBase : Nat := 0
  /-- how many bytes are stored -/
  storeLen : Nat := 0
  deriving DecidableEq, Repr

/-- From s to t, everything outside the footprint is unchanged, every byte of memory outside the stored ones
included. Nothing is said of the program counter. -/
def Untouched (f : Footprint) (s t : State) : Prop :=
  (∀ r, r ∉ f.regs → t.getV r = s.getV r) ∧
  (f.index = false → t.i = s.i) ∧
  (f.stackPointer = false → t.sp = s.sp) ∧
  (∀ k : Fin 16, f.slot ≠ some k.val → t.stack[k] = s.stack[k]) ∧
  (f.delay = false → t.dt = s.dt) ∧
  (f.sound = false → t.st = s.st) ∧
  (f.display = false → t.fb = s.fb) ∧
  (f.debug = false → t.dbgUnknown = s.dbgUnknown) ∧
  (∀ a, ¬(f.storeBase ≤ a ∧ a < f.storeBase + f.storeLen) → Memory.get t.mem a = Memory.get s.mem a) ∧
  t.mode = s.mode ∧ t.latch = s.latch ∧ t.acc = s.acc ∧ t.lastMs = s.lastMs ∧ t.frameDone = s.frameDone ∧
  t.rand8 = s.rand8 ∧ t.params = s.params ∧ t.inputs = s.inputs ∧ t.frame = s.frame

/-- V0..VX as a list of register names (R90, R91). -/
def regsUpTo (x : Nibble) : List Nibble := (List.range (x.toNat + 1)).map (BitVec.ofNat 4)

/-! ### Flag tables (spec/41_alu.md R76 to R83) -/

/-- A column of the X = F and Y = F tables: the entry under each value of VF_ORDER. -/
def VfOrder.pick (sequential latchedFirst latchedLast : Byte) : VfOrder → Byte
  | .sequential => sequential
  | .latchedVfFirst => latchedFirst
  | .latchedVfLast => latchedLast

/-- The instruction completes with `vx` in VX and `flag` in VF, pc + 2, and nothing else changed. -/
def FlagCase (i : Instr) (s : State) (x : Nibble) (vx flag : Byte) : Prop :=
  ∃ t, exec i s = .next t ∧ t.getV x = vx ∧ t.getV vf = flag ∧ t.pc = s.pc + 2#16 ∧
    Untouched { regs := [x, vf] } s t

/-- A flag producer's four cases: neither operand is VF; X = F; Y = F; both. -/
def FlagTable (i : Instr) (s : State) (x y : Nibble) (vx flag : Byte) (xIsF yIsF bothF : VfOrder → Byte) : Prop :=
  (x ≠ vf → y ≠ vf → FlagCase i s x vx flag) ∧
  (x = vf → y ≠ vf → FlagCase i s x (xIsF s.params.vfOrder) (xIsF s.params.vfOrder)) ∧
  (x ≠ vf → y = vf → FlagCase i s x (yIsF s.params.vfOrder) flag) ∧
  (x = vf → y = vf → FlagCase i s x (bothF s.params.vfOrder) (bothF s.params.vfOrder))

/-- The flag producers of R71 on two registers. -/
def flagProducers (x y : Nibble) : List Instr :=
  [.orReg x y, .andReg x y, .xorReg x y, .addReg x y, .sub x y, .shr x y, .subn x y, .shl x y]

/-! ### When an instruction faults (spec/60_exceptions.md R109) -/

/-- The lowest address above 0xFFF among `len` bytes from `base`, if any. -/
def lowestOutside (base len : Nat) : Option Nat :=
  if len = 0 ∨ base + len ≤ 0x1000 then none else some (if base < 0x1000 then 0x1000 else base)

/-- The fault R109 gives an instruction in a state, with the info it records. -/
def faultCause (i : Instr) (s : State) : Option (FaultCode × Nat) :=
  match i with
  | .ret => if s.sp.toNat = 0 then some (.stackUnderflow, s.pc.toNat) else none
  | .call _ => if s.sp.toNat = 15 then some (.stackOverflow, s.pc.toNat) else none
  | .skp x => if (s.getV x).toNat > 15 then some (.keyRange, (s.getV x).toNat) else none
  | .sknp x => if (s.getV x).toNat > 15 then some (.keyRange, (s.getV x).toNat) else none
  | .drw _ _ n => (lowestOutside s.i.toNat n.toNat).map fun a => (.dataRange, a)
  | .ldB _ => (lowestOutside s.i.toNat 3).map fun a => (.dataRange, a)
  | .ldMemVx x => (lowestOutside s.i.toNat (x.toNat + 1)).map fun a => (.dataRange, a)
  | .ldVxMem x => (lowestOutside s.i.toNat (x.toNat + 1)).map fun a => (.dataRange, a)
  | _ => none

/-! ### Control transfer (spec/10_state.md R33, R34) -/

/-- The four instructions that set jumped (R34). -/
def setsJumped : Instr → Bool
  | .ret | .jp _ | .call _ | .jpV0 _ => true
  | _ => false

/-- The skip instructions (R33). -/
def isSkip : Instr → Bool
  | .seImm _ _ | .sneImm _ _ | .seReg _ _ | .sneReg _ _ | .sneQ _ _ _ | .skp _ | .sknp _ => true
  | _ => false

/-! ### The invariant -/

/-- Whether the core waits for a key. -/
def Mode.isAwaiting : Mode → Bool
  | .awaitingKey _ => true
  | _ => false

/-- What every step keeps: memory in canonical form; SP in 0..15 and slot 0 never written (R21); every return
address at most 0x1000 (R61) and inside its slot's width (R6); PC at most 0x10FE (R20); a waiting core's PC at a fetched FX0A (R26); frame_done only
in Running (R16). -/
def State.Inv (s : State) : Prop :=
  Memory.wf s.mem = true ∧
  s.sp.toNat ≤ 15 ∧
  s.stack[0] = 0x0000#16 ∧
  (∀ k : Fin 16, s.stack[k].toNat ≤ 0x1000 ∧ s.stack[k].toNat < 2 ^ s.params.stackSlotWidth) ∧
  s.pc.toNat ≤ 0x10FE ∧
  (s.mode.isAwaiting = true → s.pc.toNat ≤ 0xFFE) ∧
  (s.frameDone = true → s.mode = .running)

/-- A safe run never enters the mode Faulted. -/
def State.safe (s : State) : Prop := ∀ c n, s.mode ≠ .faulted c n

/-! ### The sprite, without the drawing loops (spec/43_display.md R93, R94) -/

/-- Whether the sprite of `n` rows at memory address `base` with origin (x0, y0) has a 1 bit at (x, y): column c of
row r is bit 7 - c of the byte at base + r. -/
def spriteBit (m : Memory) (base n x0 y0 x y : Nat) : Bool :=
  decide (x0 ≤ x ∧ x < x0 + 8 ∧ y0 ≤ y ∧ y < y0 + n) && (Memory.get m (base + (y - y0))).getLsbD (7 - (x - x0))

/-- The coordinate DXYN reads from a register: VF reads as 0 under `sequential`, since it was just cleared (R97). -/
def coordinate (s : State) (r : Nibble) : Nat :=
  if r = vf ∧ s.params.vfOrder = .sequential then 0 else (s.getV r).toNat

/-! ### Runs of the governor (spec/60_exceptions.md R117) -/

/-- Governor runs at a list of clock values, stopping where there is no step. -/
def governorRuns : List Nat → State → Result
  | [], s => .next s
  | n :: ns, s =>
    match governor n s with
    | .next t => governorRuns ns t
    | .fault r => .fault r
    | .refused r => .refused r

/-! ### Hiding the sound timer (spec/10_state.md R22) -/

/-- An answer with ST forgotten. -/
def hideSound : Result → Result
  | .next t => .next (t.setSt 0x00#8)
  | .fault r => .fault r
  | .refused r => .refused r

end Sys2Proof.Machine
end

