-- ==== Sys2Proof/Certificates/Slice0/Obligations.lean ====
section
/-!
DEFINITION. The statements for the provers. Each docstring names the rules of spec/ it formalises; where a clause
rests on a decision of the spec's own (92_eei_decisions.md D<n>) or of the model (log n), it says so.
-/

open Sys2Proof Sys2Proof.Machine

/-! ### Encoding -/

/-- Decoding the word of a well-formed instruction gives it back, every operand at every value (R53, R54, R56). -/
def Obligations.EncodedInstructionDecodesToItself : Prop :=
  ∀ i : Instr, i.wf = true → decode (encode i) = i

/-- Every word is the word of the well-formed instruction it decodes to: decoding is total and drops no bit (R55,
R59). -/
def Obligations.EveryWordEncodesItsInstruction : Prop :=
  ∀ w : Word, (decode w).wf = true ∧ encode (decode w) = w

/-- The row of the instruction a word decodes to matches the word, is in the map, and has strictly more mask bits
than any other row that matches; the 34 instruction rows are pairwise disjoint (R55). -/
def Obligations.DecodePicksTheLargestMatchingMask : Prop :=
  (∀ w : Word, (decode w).row ∈ opcodeMap ∧ (decode w).row.matches w = true ∧
    ∀ r ∈ opcodeMap, r.matches w = true → r ≠ (decode w).row → r.weight < (decode w).row.weight) ∧
  (∀ r ∈ instructionRows, ∀ q ∈ instructionRows, ∀ w : Word, r.matches w = true → q.matches w = true → r = q)

/-- The words that decode as unknown are the families R57 lists, written with plain arithmetic. -/
def Obligations.UnknownWordsAreTheListedFamilies : Prop :=
  ∀ w : Word, (∃ u, decode w = .unknown u) ↔ isUnknownWord w = true

/-- A few words of 95_test_vectors.md, one per family, decode to the instruction they stand for. -/
def Obligations.SampleWordsDecode : Prop :=
  decode 0x00E0#16 = .cls ∧ decode 0x1228#16 = .jp 0x228#12 ∧ decode 0x6A42#16 = .ldImm 0xA#4 0x42#8 ∧
  decode 0x8126#16 = .shr 0x1#4 0x2#4 ∧ decode 0x9125#16 = .sneQ 0x1#4 0x2#4 0x5#4 ∧
  decode 0xD125#16 = .drw 0x1#4 0x2#4 0x5#4 ∧ decode 0xE59E#16 = .skp 0x5#4 ∧ decode 0xF265#16 = .ldVxMem 0x2#4 ∧
  decode 0x01E0#16 = .unknown 0x01E0#16

/-! ### The frame step -/

/-- In Running, without quit, with a clock not below LAST_MS and with both bytes of the word in memory, a step is exec of the decoded instruction at
the state after the latch refresh, and then the close of the frame; a fault or refusal of exec is the step's
(R29, R32, R42). -/
def Obligations.StepRunsTheDecodedInstruction : Prop :=
  ∀ (s : State) (i : Instr), s.mode = .running → s.lastMs ≤ s.nextFrame.nowMs → s.nextFrame.quit = false →
    s.pc.toNat ≤ 0xFFE →
    decode (Memory.get s.mem s.pc.toNat ++ Memory.get s.mem (s.pc.toNat + 1)) = i →
    step s =
      match exec i { s with
          inputs := s.inputs.tail, frame := s.frame + 1, latch := s.nextFrame.keys, rand8 := s.nextFrame.rand8,
          frameDone := false, dbgUnknown := false } with
      | .next t => closeFrame s.nextFrame.nowMs t
      | .fault r => .fault r
      | .refused r => .refused r

/-- A frame step that takes the host's inputs has no move if the clock is below LAST_MS, whatever the inputs and the
instruction: the host broke its duty. That it has no move is the spec's own decision (R125, R116; 92 D26); that the
model stops there with the fault clockBackwards is log 9. -/
def Obligations.BackwardClockHasNoMove : Prop :=
  ∀ s : State, s.mode = .running ∨ s.mode.isAwaiting = true → s.nextFrame.nowMs < s.lastMs →
    step s = .fault .clockBackwards

/-- The close of a frame: in Running frame_done goes high and the governor runs; in AwaitingKey the governor runs
only under TIMERS_DURING_KEYWAIT; after a fault neither happens (R16, R29, R110, R116). -/
def Obligations.FrameCloseRunsTheGovernorByMode : Prop :=
  ∀ (now : Nat) (s : State),
    (s.mode = .running → closeFrame now s = governor now { s with frameDone := true }) ∧
    (∀ x, s.mode = .awaitingKey x → s.params.timersDuringKeywait = true → closeFrame now s = governor now s) ∧
    (∀ x, s.mode = .awaitingKey x → s.params.timersDuringKeywait = false → closeFrame now s = .next s) ∧
    (∀ c n, s.mode = .faulted c n → closeFrame now s = .next s)

/-- A fetch at a PC above 0xFFE faults FETCH_RANGE with PC as info, and nothing but the latch refresh has happened.
That it faults, and that the fault is precise, is the spec's own decision (92 D6, D9, D22). -/
def Obligations.FetchPastMemoryFaults : Prop :=
  ∀ s : State, s.mode = .running → s.lastMs ≤ s.nextFrame.nowMs → s.nextFrame.quit = false →
    s.pc.toNat > 0xFFE →
    step s = .next { s with
      inputs := s.inputs.tail, frame := s.frame + 1, latch := s.nextFrame.keys, rand8 := s.nextFrame.rand8,
      frameDone := false, dbgUnknown := false, mode := .faulted .fetchRange s.pc.toNat }

/-- Quit, sampled first in Running, stops the core: no instruction, no latch refresh, no governor run, even where
the fetch or the instruction would fault. When it is sampled and that the mode is Stopped is the spec's own decision
(92 D21). -/
def Obligations.QuitStopsTheCore : Prop :=
  ∀ s : State, s.mode = .running → s.lastMs ≤ s.nextFrame.nowMs → s.nextFrame.quit = true →
    ∃ t, step s = .next t ∧ t.mode = .stopped ∧ t.frameDone = false ∧ t.dbgUnknown = false ∧
      t.v = s.v ∧ t.i = s.i ∧ t.pc = s.pc ∧ t.sp = s.sp ∧ t.stack = s.stack ∧ t.dt = s.dt ∧ t.st = s.st ∧
      t.mem = s.mem ∧ t.fb = s.fb ∧ t.latch = s.latch ∧ t.acc = s.acc ∧ t.lastMs = s.lastMs ∧ t.params = s.params

/-- A frame step in Faulted or Stopped leaves the whole state unchanged. The modes are the spec's own decision
(R31; 92 D6, D21). -/
def Obligations.TerminalModesChangeNothing : Prop :=
  ∀ s : State, ((∃ c n, s.mode = .faulted c n) ∨ s.mode = .stopped) → step s = .next s

/-- A wait poll that finds a key stores the index of a pressed key (the lowest under KEY_PICK = lowest, some pressed
one under any), advances PC by 2, returns to Running and runs the governor once; nothing else of the machine
changes (R30; the latch refresh in a poll is 92 D32). -/
def Obligations.WaitPollWithAKeyCompletes : Prop :=
  ∀ (s : State) (x : Nibble), s.mode = .awaitingKey x → s.nextFrame.keys ≠ 0#16 →
    ∃ (k : Nat) (u : State), step s = governor s.nextFrame.nowMs u ∧
      k < 16 ∧ s.nextFrame.keys.getLsbD k = true ∧
      (s.params.keyPick = .lowest → ∀ j < k, s.nextFrame.keys.getLsbD j = false) ∧
      u.getV x = BitVec.ofNat 8 k ∧ u.pc = s.pc + 2#16 ∧ u.mode = .running ∧ u.latch = s.nextFrame.keys ∧
      u.frameDone = true ∧ u.acc = s.acc ∧ u.lastMs = s.lastMs ∧ u.rand8 = s.rand8 ∧ u.params = s.params ∧
      (∀ r, r ≠ x → u.getV r = s.getV r) ∧ u.i = s.i ∧ u.sp = s.sp ∧ u.stack = s.stack ∧ u.dt = s.dt ∧
      u.st = s.st ∧ u.mem = s.mem ∧ u.fb = s.fb ∧ u.dbgUnknown = false ∧ u.inputs = s.inputs.tail ∧
      u.frame = s.frame + 1

/-- A wait poll that finds no key keeps waiting: by default only the latch is refreshed, and the governor runs under
TIMERS_DURING_KEYWAIT alone (R30; 92 D12, D32). -/
def Obligations.WaitPollWithoutAKeyKeepsWaiting : Prop :=
  ∀ (s : State) (x : Nibble), s.mode = .awaitingKey x → s.nextFrame.keys = 0#16 →
    let u : State := { s with
      inputs := s.inputs.tail, frame := s.frame + 1, latch := 0#16, frameDone := false, dbgUnknown := false }
    (s.params.timersDuringKeywait = false → s.lastMs ≤ s.nextFrame.nowMs → step s = .next u) ∧
    (s.params.timersDuringKeywait = true → step s = governor s.nextFrame.nowMs u)

/-- A wait poll ignores quit and rand8 (R30, R112). -/
def Obligations.WaitPollIgnoresQuitAndRandomByte : Prop :=
  ∀ (s : State) (x : Nibble) (f g : FrameIn) (fs : List FrameIn), s.mode = .awaitingKey x →
    f.keys = g.keys → f.nowMs = g.nowMs →
    step { s with inputs := f :: fs } = step { s with inputs := g :: fs }

/-! ### The timing governor -/

/-- One governor run: no step when the clock went backwards (92 D26); else ACC gains 10 units a millisecond exactly
(92 D13), LAST_MS is the clock, and from 166 units up DT and ST each fall by one (never below 0) and ACC by 166;
below it they stay. Nothing else changes (R116). -/
def Obligations.GovernorRunsExactly : Prop :=
  ∀ (now : Nat) (s : State),
    (now < s.lastMs → governor now s = .fault .clockBackwards) ∧
    (s.lastMs ≤ now → ∃ t, governor now s = .next t ∧ t.lastMs = now ∧
      (166 ≤ s.acc + 10 * (now - s.lastMs) →
        t.acc + 166 = s.acc + 10 * (now - s.lastMs) ∧
        t.dt.toNat = s.dt.toNat - 1 ∧ t.st.toNat = s.st.toNat - 1) ∧
      (s.acc + 10 * (now - s.lastMs) < 166 →
        t.acc = s.acc + 10 * (now - s.lastMs) ∧ t.dt = s.dt ∧ t.st = s.st) ∧
      t.v = s.v ∧ t.i = s.i ∧ t.pc = s.pc ∧ t.sp = s.sp ∧ t.stack = s.stack ∧ t.mem = s.mem ∧ t.fb = s.fb ∧
      t.latch = s.latch ∧ t.mode = s.mode ∧ t.frameDone = s.frameDone ∧ t.dbgUnknown = s.dbgUnknown ∧
      t.rand8 = s.rand8 ∧ t.params = s.params ∧ t.inputs = s.inputs ∧ t.frame = s.frame)

/-- Over any sequence of governor runs some number k of decrements happened, at most one a run: DT and ST each fell by
k (never below 0), ACC accounts exactly for the elapsed time, and from ACC = 0 k is at most the elapsed ticks rounded
down (R117). -/
def Obligations.DecrementsNeverOutrunElapsedTime : Prop :=
  ∀ (clock : List Nat) (s t : State), governorRuns clock s = .next t →
    ∃ k, k ≤ clock.length ∧ s.lastMs ≤ t.lastMs ∧
      t.acc + 166 * k = s.acc + 10 * (t.lastMs - s.lastMs) ∧
      t.dt.toNat = s.dt.toNat - k ∧ t.st.toNat = s.st.toNat - k ∧
      (s.acc = 0 → k ≤ 10 * (t.lastMs - s.lastMs) / 166)

/-- In one step DT falls by at most one and never rises, unless the instruction run is FX15 (R127, R22). -/
def Obligations.DelayTimerFallsByAtMostOneAStep : Prop :=
  ∀ s t : State, step s = .next t →
    (∀ x, decode (fetchWord s.mem s.pc.toNat) ≠ .ldDtVx x) → t.dt = s.dt ∨ t.dt.toNat + 1 = s.dt.toNat

/-- During a key wait the timers are frozen under the default, and the poll that ends the wait decrements each at
most once, however long the wait was (R128, R30; 92 D12). -/
def Obligations.KeyWaitStarvesTheTimers : Prop :=
  ∀ (s t : State) (x : Nibble), s.mode = .awaitingKey x → s.params.timersDuringKeywait = false → step s = .next t →
    (t.mode = .awaitingKey x → t.dt = s.dt ∧ t.st = s.st ∧ t.acc = s.acc ∧ t.lastMs = s.lastMs) ∧
    (t.mode = .running →
      t.dt.toNat ≤ s.dt.toNat ∧ s.dt.toNat ≤ t.dt.toNat + 1 ∧
      t.st.toNat ≤ s.st.toNat ∧ s.st.toNat ≤ t.st.toNat + 1)

/-! ### Faults -/

/-- An instruction faults exactly where R109 says, with the code and info R109 gives, and the fault changes the mode
and nothing else; every other instruction, and these elsewhere, never fault. SP is at most 15 in every state a run
reaches (InvariantHoldsAfterEveryStep). The mode port carries the code's number of R109 in Faulted only (R16). That
these conditions are faults, and the numbers, are the spec's own decisions (92 D6 to D10). -/
def Obligations.InstructionsFaultExactlyAsListed : Prop :=
  (∀ (i : Instr) (s : State), s.sp.toNat ≤ 15 →
    (∀ c n, faultCause i s = some (c, n) → exec i s = .next { s with mode := .faulted c n }) ∧
    (faultCause i s = none → ∀ t c n, exec i s = .next t → s.mode = .running → t.mode ≠ .faulted c n)) ∧
  (∀ m : Mode, m.portCode = match m with
    | .faulted .fetchRange _ => some 1
    | .faulted .dataRange _ => some 2
    | .faulted .stackOverflow _ => some 3
    | .faulted .stackUnderflow _ => some 4
    | .faulted .keyRange _ => some 5
    | _ => none)

/-- A step of a running core that ends in Faulted has done the latch refresh and nothing else: PC, registers, memory,
stack, framebuffer and timers are as before, the governor has not run and frame_done is low (R110, R32; the
precision is the spec's own decision, 92 D6, D22). -/
def Obligations.FaultsAreTakenPrecisely : Prop :=
  ∀ (s t : State) (c : FaultCode) (n : Nat), s.mode = .running → step s = .next t → t.mode = .faulted c n →
    t = { s with
      inputs := s.inputs.tail, frame := s.frame + 1, latch := s.nextFrame.keys, rand8 := s.nextFrame.rand8,
      frameDone := false, dbgUnknown := false, mode := .faulted c n }

/-! ### Whole-machine rules -/

/-- Only 00EE, 1NNN, 2NNN and BNNN set PC: every other instruction that leaves the core running moves it by 2, or
by 4 if it is a skip (R33, R34). -/
def Obligations.OnlyFourInstructionsJump : Prop :=
  ∀ (i : Instr) (s t : State), exec i s = .next t → t.mode = .running → setsJumped i = false →
    t.pc = s.pc + 2#16 ∨ (isSkip i = true ∧ t.pc = s.pc + 4#16)

/-- Only 2NNN and 00EE touch SP or the stack; only 00E0 and DXYN touch the framebuffer; no instruction touches the
latch, the accumulator or the clock (R21, R23, R24, R27). -/
def Obligations.StackDisplayAndLatchHaveTheirOnlyWriters : Prop :=
  ∀ (i : Instr) (s t : State), exec i s = .next t →
    ((i ≠ .ret ∧ ∀ a, i ≠ .call a) → t.sp = s.sp ∧ t.stack = s.stack) ∧
    ((i ≠ .cls ∧ ∀ x y n, i ≠ .drw x y n) → t.fb = s.fb) ∧
    t.latch = s.latch ∧ t.acc = s.acc ∧ t.lastMs = s.lastMs

/-- Only FX33 and FX55 write memory; only ANNN, FX1E, FX29, FX55 and FX65 write I; only FX15 writes DT and only FX18
writes ST (R37, R19, R22). -/
def Obligations.MemoryIndexAndTimersHaveTheirOnlyWriters : Prop :=
  ∀ (i : Instr) (s t : State), exec i s = .next t →
    (((∀ x, i ≠ .ldB x) ∧ ∀ x, i ≠ .ldMemVx x) → t.mem = s.mem) ∧
    (((∀ a, i ≠ .ldI a) ∧ (∀ x, i ≠ .addI x) ∧ (∀ x, i ≠ .ldF x) ∧ (∀ x, i ≠ .ldMemVx x) ∧ ∀ x, i ≠ .ldVxMem x) →
      t.i = s.i) ∧
    ((∀ x, i ≠ .ldDtVx x) → t.dt = s.dt) ∧ ((∀ x, i ≠ .ldStVx x) → t.st = s.st)

/-- The invariant holds after every step from every state in which it holds: memory canonical, SP in 0..15, slot 0
never written, return addresses at most 0x1000 and inside the slot width, PC at most 0x10FE, a waiting PC fetchable, frame_done only in Running
(R20, R21, R61). -/
def Obligations.InvariantHoldsAfterEveryStep : Prop :=
  ∀ s t : State, s.Inv → step s = .next t → t.Inv

/-- The invariant holds after every reset, whatever the parameters, font, image and clock. -/
def Obligations.InvariantHoldsAtReset : Prop :=
  State.reset.Inv ∧ ∀ l : Launch, l.pcReset.toNat ≤ 0x10FE → (State.resetWith l).Inv

/-- The sound timer cannot be observed: two states that differ only in ST step to answers that differ only in ST, and
a stop is the same stop (R22). -/
def Obligations.SoundTimerIsUnobservable : Prop :=
  ∀ (s : State) (x : Byte), hideSound (step (s.setSt x)) = hideSound (step s)

/-- No step changes the parameters (R6; that they are fields of the state is log 1). -/
def Obligations.ParametersNeverChange : Prop :=
  ∀ s t : State, step s = .next t → t.params = s.params

/-- The latch value from before a frame step cannot be observed by it: it is overwritten before the instruction
(R24, R29). -/
def Obligations.StaleLatchIsOverwritten : Prop :=
  ∀ (s : State) (l : BitVec 16), (s.mode = .running ∧ s.nextFrame.quit = false) ∨ s.mode.isAwaiting = true →
    step { s with latch := l } = step s

/-! ### Reset -/

/-- What reset leaves, for every launch: the register, timer, stack and framebuffer values of R36, PC the launch's
PC_RESET, LAST_MS its T0, and every byte of memory: the font, the image from 0x200 cut at 3584 bytes, zero elsewhere
(R36, R38, R47, R122; PC, FB, LATCH, ACC and MODE are the spec's own decisions 92 D2, D14, D16). -/
def Obligations.ResetLeavesTheListedValues : Prop :=
  (∀ l : Launch, ∀ s, s = State.resetWith l →
    (∀ r, s.getV r = 0x00#8) ∧ s.i = 0x0000#16 ∧ s.pc = l.pcReset ∧ s.sp = 0x00#8 ∧
    (∀ k : Fin 16, s.stack[k] = 0x0000#16) ∧ s.dt = 0x00#8 ∧ s.st = 0x00#8 ∧
    (∀ x y, Framebuffer.pixel s.fb x y = false) ∧ s.latch = 0x0000#16 ∧ s.acc = 0 ∧ s.lastMs = l.t0 ∧
    s.mode = .running ∧
    (∀ a < 0x1000, Memory.get s.mem a =
      if 0x050 ≤ a ∧ a < 0x0A0 then l.font.toList.getD (a - 0x050) 0
      else if 0x200 ≤ a ∧ a < 0x200 + l.rom.length then l.rom.getD (a - 0x200) 0
      else 0)) ∧
  State.resetWith defaultLaunch = State.reset

/-! ### Control flow -/

/-- RET: the slot STACK[SP] goes to PC, SP falls by one, the slot keeps its value (R61). With no call outstanding it
faults STACK_UNDERFLOW with PC as info, the spec's own decision (92 D7). SP above 15, which no run reaches, names no
slot: the model's own choice is a stop (log 14). -/
def Obligations.ReturnPopsTheStack : Prop :=
  ∀ s : State,
    (∀ k : Fin 16, k.val = s.sp.toNat → 0 < s.sp.toNat →
      ∃ t, exec .ret s = .next t ∧ t.pc = s.stack[k] ∧ t.sp.toNat + 1 = s.sp.toNat ∧
        Untouched { stackPointer := true } s t) ∧
    (s.sp.toNat = 0 → exec .ret s = .next { s with mode := .faulted .stackUnderflow s.pc.toNat }) ∧
    (15 < s.sp.toNat → exec .ret s = .fault .stackSlotAbsent)

/-- JP addr: PC is NNN exactly (R62). -/
def Obligations.JumpSetsThePc : Prop :=
  ∀ (s : State) (nnn : Addr), ∃ t, exec (.jp nnn) s = .next t ∧ t.pc.toNat = nnn.toNat ∧ Untouched {} s t

/-- CALL addr: SP rises by one, the new top slot holds PC + 2 cut to STACK_SLOT_WIDTH bits (whole at 13 bits or more
for every CALL that can be fetched, 92 D17) and PC is NNN; at SP = 15 it faults STACK_OVERFLOW with
PC as info. The pushed value and the fault are the spec's own decisions (R63; 92 D3, D7); that a narrower slot keeps
the low bits is the model's deduction (log 11), and that SP above 15, which no
run reaches, overflows too is the model's (log 14). -/
def Obligations.CallPushesTheReturnAddress : Prop :=
  ∀ (s : State) (nnn : Addr),
    (∀ k : Fin 16, k.val = s.sp.toNat + 1 →
      ∃ t, exec (.call nnn) s = .next t ∧ t.sp.toNat = k.val ∧ t.pc.toNat = nnn.toNat ∧
        t.stack[k].toNat = (s.pc + 2#16).toNat % 2 ^ s.params.stackSlotWidth ∧
        (13 ≤ s.params.stackSlotWidth → s.pc.toNat ≤ 0xFFE → t.stack[k] = s.pc + 2#16) ∧
        Untouched { stackPointer := true, slot := some k.val } s t) ∧
    (15 ≤ s.sp.toNat → exec (.call nnn) s = .next { s with mode := .faulted .stackOverflow s.pc.toNat })

/-- CALL followed by RET resumes at the instruction after the CALL with SP restored, where the slot is wide enough for
that address (at 16 bits, the default, always; a narrower slot cuts it, CallPushesTheReturnAddress), whatever the code between left
in registers and memory (90 C1, 92 D3). -/
def Obligations.ReturnResumesAfterTheCall : Prop :=
  ∀ (s : State) (nnn : Addr), s.sp.toNat < 15 → (s.pc + 2#16).toNat < 2 ^ s.params.stackSlotWidth →
    ∃ t, exec (.call nnn) s = .next t ∧
      ∀ t' : State, t'.sp = t.sp → t'.stack = t.stack →
        ∃ u, exec .ret t' = .next u ∧ u.pc = s.pc + 2#16 ∧ u.sp = s.sp

/-- JP V0, addr: PC is NNN + V0, never wrapped and not cut to 12 bits (R64). -/
def Obligations.JumpWithOffsetAddsV0 : Prop :=
  ∀ (s : State) (nnn : Addr), ∃ t, exec (.jpV0 nnn) s = .next t ∧
    t.pc.toNat = nnn.toNat + (s.getV 0x0#4).toNat ∧ Untouched {} s t

/-- SE and SNE against a byte: 4 in all when the skip is taken, 2 otherwise; nothing else changes (R65, R66). -/
def Obligations.SkipsAgainstAByte : Prop :=
  ∀ (s : State) (x : Nibble) (nn : Byte),
    (∃ t, exec (.seImm x nn) s = .next t ∧ t.pc = s.pc + (if s.getV x = nn then 4#16 else 2#16) ∧
      Untouched {} s t) ∧
    (∃ t, exec (.sneImm x nn) s = .next t ∧ t.pc = s.pc + (if s.getV x = nn then 2#16 else 4#16) ∧
      Untouched {} s t)

/-- SE and SNE between registers (R67, R68). -/
def Obligations.SkipsBetweenRegisters : Prop :=
  ∀ (s : State) (x y : Nibble),
    (∃ t, exec (.seReg x y) s = .next t ∧ t.pc = s.pc + (if s.getV x = s.getV y then 4#16 else 2#16) ∧
      Untouched {} s t) ∧
    (∃ t, exec (.sneReg x y) s = .next t ∧ t.pc = s.pc + (if s.getV x = s.getV y then 2#16 else 4#16) ∧
      Untouched {} s t)

/-- SNE.Q: the skip of 9XY0 and the diagnostic; refused under UNKNOWN_POLICY = refuse (R69). -/
def Obligations.QuirkWordSkipsAndReports : Prop :=
  ∀ (s : State) (x y n : Nibble),
    (s.params.unknownPolicy = .noop →
      ∃ t, exec (.sneQ x y n) s = .next t ∧ t.pc = s.pc + (if s.getV x = s.getV y then 2#16 else 4#16) ∧
        t.dbgUnknown = true ∧ Untouched { debug := true } s t) ∧
    (s.params.unknownPolicy = .refuse →
      exec (.sneQ x y n) s = .refused (.unknownOpcode (encode (.sneQ x y n))))

/-- An unknown word: the diagnostic and PC + 2, nothing else; refused under UNKNOWN_POLICY = refuse (R107). -/
def Obligations.UnknownWordOnlyAdvances : Prop :=
  ∀ (s : State) (w : Word),
    (s.params.unknownPolicy = .noop →
      ∃ t, exec (.unknown w) s = .next t ∧ t.pc = s.pc + 2#16 ∧ t.dbgUnknown = true ∧
        Untouched { debug := true } s t) ∧
    (s.params.unknownPolicy = .refuse → exec (.unknown w) s = .refused (.unknownOpcode w))

/-! ### Register loads and the ALU -/

/-- LD Vx, byte; ADD Vx, byte (wraps, no flag); LD Vx, Vy: the destination's new value, pc + 2, nothing else, VF
included unless it is the destination (R73, R74, R75). -/
def Obligations.RegisterLoadsWriteOnlyTheirDestination : Prop :=
  ∀ (s : State) (x y : Nibble) (nn : Byte),
    (∃ t, exec (.ldImm x nn) s = .next t ∧ t.getV x = nn ∧ t.pc = s.pc + 2#16 ∧ Untouched { regs := [x] } s t) ∧
    (∃ t, exec (.addImm x nn) s = .next t ∧ (t.getV x).toNat = ((s.getV x).toNat + nn.toNat) % 256 ∧
      t.pc = s.pc + 2#16 ∧ Untouched { regs := [x] } s t) ∧
    (∃ t, exec (.ldReg x y) s = .next t ∧ t.getV x = s.getV y ∧ t.pc = s.pc + 2#16 ∧
      Untouched { regs := [x] } s t)

/-- OR: the result and the cleared VF under every VF_ORDER, the X = F and Y = F table of R76, and VF untouched when
LOGIC_CLEARS_VF is false. The two parameters and their defaults are the spec's own decisions (R76; 92 D4, D5). -/
def Obligations.OrFollowsItsTable : Prop :=
  ∀ (s : State) (x y : Nibble) (a b : Byte), s.getV x = a → s.getV y = b →
    (s.params.logicClearsVf = true →
      FlagTable (.orReg x y) s x y (a ||| b) 0x00#8 (VfOrder.pick b (a ||| b) 0) (VfOrder.pick a (a ||| b) (a ||| b))
        (VfOrder.pick 0 a 0)) ∧
    (s.params.logicClearsVf = false →
      ∃ t, exec (.orReg x y) s = .next t ∧ t.getV x = a ||| b ∧ t.pc = s.pc + 2#16 ∧ Untouched { regs := [x] } s t)

/-- AND: as R77 tabulates it (92 D4, D5). -/
def Obligations.AndFollowsItsTable : Prop :=
  ∀ (s : State) (x y : Nibble) (a b : Byte), s.getV x = a → s.getV y = b →
    (s.params.logicClearsVf = true →
      FlagTable (.andReg x y) s x y (a &&& b) 0x00#8 (VfOrder.pick 0 (a &&& b) 0) (VfOrder.pick 0 (a &&& b) (a &&& b))
        (VfOrder.pick 0 a 0)) ∧
    (s.params.logicClearsVf = false →
      ∃ t, exec (.andReg x y) s = .next t ∧ t.getV x = a &&& b ∧ t.pc = s.pc + 2#16 ∧ Untouched { regs := [x] } s t)

/-- XOR: as R78 tabulates it (92 D4, D5). -/
def Obligations.XorFollowsItsTable : Prop :=
  ∀ (s : State) (x y : Nibble) (a b : Byte), s.getV x = a → s.getV y = b →
    (s.params.logicClearsVf = true →
      FlagTable (.xorReg x y) s x y (a ^^^ b) 0x00#8 (VfOrder.pick b (a ^^^ b) 0) (VfOrder.pick a (a ^^^ b) (a ^^^ b))
        (VfOrder.pick 0 0 0)) ∧
    (s.params.logicClearsVf = false →
      ∃ t, exec (.xorReg x y) s = .next t ∧ t.getV x = a ^^^ b ∧ t.pc = s.pc + 2#16 ∧ Untouched { regs := [x] } s t)

/-- ADD: the sum modulo 256 and the carry, with the X = F and Y = F table of R79 under every VF_ORDER (92 D4). -/
def Obligations.AddFollowsItsTable : Prop :=
  ∀ (s : State) (x y : Nibble) (a b f : Byte), s.getV x = a → s.getV y = b →
    f = (if a.toNat + b.toNat > 255 then 0x01#8 else 0x00#8) →
    FlagTable (.addReg x y) s x y (a + b) f (VfOrder.pick (f + b) (a + b) f) (VfOrder.pick (a + f) (a + b) (a + b))
      (VfOrder.pick (2 * f) (2 * a) f)

/-- SUB and SUBN: the difference modulo 256 and the strict no-borrow flag, equal operands giving 0 and 0, with the
tables of R80 and R82 under every VF_ORDER (92 D4). -/
def Obligations.SubtractionsFollowTheirTables : Prop :=
  ∀ (s : State) (x y : Nibble) (a b f g : Byte), s.getV x = a → s.getV y = b →
    f = (if a.toNat > b.toNat then 0x01#8 else 0x00#8) → g = (if b.toNat > a.toNat then 0x01#8 else 0x00#8) →
    FlagTable (.sub x y) s x y (a - b) f (VfOrder.pick (f - b) (a - b) f) (VfOrder.pick (a - f) (a - b) (a - b))
      (VfOrder.pick 0 0 0) ∧
    FlagTable (.subn x y) s x y (b - a) g (VfOrder.pick (b - g) (b - a) g) (VfOrder.pick (g - a) (b - a) (b - a))
      (VfOrder.pick 0 0 0)

/-- SHR and SHL: VY shifted by one into VX and the bit shifted out in VF, VX's old value no operand, with the tables
of R81 and R83 under every VF_ORDER (92 D4). -/
def Obligations.ShiftsFollowTheirTables : Prop :=
  ∀ (s : State) (x y : Nibble) (b lo hi half twice : Byte), s.getV y = b →
    lo.toNat = b.toNat % 2 → hi.toNat = b.toNat / 128 → half.toNat = b.toNat / 2 →
    twice.toNat = 2 * b.toNat % 256 →
    FlagTable (.shr x y) s x y half lo (VfOrder.pick half half lo) (VfOrder.pick 0 half half)
      (VfOrder.pick 0 half lo) ∧
    FlagTable (.shl x y) s x y twice hi (VfOrder.pick twice twice hi) (VfOrder.pick (2 * hi) twice twice)
      (VfOrder.pick (2 * hi) twice hi)

/-- When neither operand is VF, a flag producer gives the same state under every VF_ORDER (R72). -/
def Obligations.VfOrderShowsOnlyThroughVf : Prop :=
  ∀ (x y : Nibble) (i : Instr) (s : State) (o : VfOrder), x ≠ vf → y ≠ vf → i ∈ flagProducers x y →
    ∃ t, exec i s = .next t ∧
      exec i { s with params := { s.params with vfOrder := o } } =
        .next { t with params := { s.params with vfOrder := o } }

/-- RND: the sampled random byte masked by NN, a sub-mask of NN, for every value of the byte. That the byte is a draw
under no law is the spec's own decision (R84; 92 D15). -/
def Obligations.RandomByteIsMasked : Prop :=
  ∀ (s : State) (x : Nibble) (nn draw : Byte), s.rand8 = draw →
    ∃ t, exec (.rnd x nn) s = .next t ∧ t.getV x = draw &&& nn ∧ t.getV x &&& ~~~nn = 0x00#8 ∧
      t.pc = s.pc + 2#16 ∧ Untouched { regs := [x] } s t

/-! ### The index register and memory -/

/-- LD I, addr and LD F, Vx (VX not masked to a nibble): I's new value, pc + 2, nothing else (R86, R88). -/
def Obligations.IndexRegisterLoads : Prop :=
  ∀ (s : State) (x : Nibble) (nnn : Addr),
    (∃ t, exec (.ldI nnn) s = .next t ∧ t.i.toNat = nnn.toNat ∧ t.pc = s.pc + 2#16 ∧
      Untouched { index := true } s t) ∧
    (∃ t, exec (.ldF x) s = .next t ∧ t.i.toNat = 0x050 + 5 * (s.getV x).toNat ∧ t.pc = s.pc + 2#16 ∧
      Untouched { index := true } s t)

/-- ADD I, Vx: the sum is not cut to 12 bits and VF is not written (R87). That it wraps modulo 65536 is the spec's
own decision (92 D30). -/
def Obligations.AddToIndexRegister : Prop :=
  ∀ (s : State) (x : Nibble), ∃ t, exec (.addI x) s = .next t ∧
    t.i.toNat = (s.i.toNat + (s.getV x).toNat) % 65536 ∧ t.pc = s.pc + 2#16 ∧ Untouched { index := true } s t

/-- LD B, Vx: the three digits at I, I + 1, I + 2, every other byte and I unchanged; DATA_RANGE before any write if
one of the addresses is above 0xFFF, the spec's own decision (R89; 92 D8, D22). -/
def Obligations.BcdStoresThreeDigits : Prop :=
  ∀ (s : State) (x : Nibble), Memory.wf s.mem = true →
    (indexBase s + 2 ≤ 0xFFF →
      ∃ t, exec (.ldB x) s = .next t ∧
        (Memory.get t.mem (indexBase s)).toNat = (s.getV x).toNat / 100 ∧
        (Memory.get t.mem (indexBase s + 1)).toNat = (s.getV x).toNat / 10 % 10 ∧
        (Memory.get t.mem (indexBase s + 2)).toNat = (s.getV x).toNat % 10 ∧
        t.pc = s.pc + 2#16 ∧ Untouched { storeBase := indexBase s, storeLen := 3 } s t) ∧
    (indexBase s + 2 > 0xFFF →
      exec (.ldB x) s = .next { s with mode := .faulted .dataRange (max (indexBase s) 0x1000) })

/-- LD [I], Vx: V0..VX at I..I + X, every other byte unchanged, I advanced by X + 1; DATA_RANGE before any write,
the spec's own decision (R90; 92 D8, D22, D30). -/
def Obligations.BlockStoreWritesV0ToVx : Prop :=
  ∀ (s : State) (x : Nibble), Memory.wf s.mem = true →
    (indexBase s + x.toNat ≤ 0xFFF →
      ∃ t, exec (.ldMemVx x) s = .next t ∧
        (∀ k : Nibble, k.toNat ≤ x.toNat → Memory.get t.mem (indexBase s + k.toNat) = s.getV k) ∧
        t.i.toNat = (s.i.toNat + x.toNat + 1) % 65536 ∧ t.pc = s.pc + 2#16 ∧
        Untouched { index := true, storeBase := indexBase s, storeLen := x.toNat + 1 } s t) ∧
    (indexBase s + x.toNat > 0xFFF →
      exec (.ldMemVx x) s = .next { s with mode := .faulted .dataRange (max (indexBase s) 0x1000) })

/-- LD Vx, [I]: V0..VX from I..I + X, the registers above X unchanged, I advanced by X + 1; DATA_RANGE before any
write, the spec's own decision (R91; 92 D8, D22, D30). -/
def Obligations.BlockLoadReadsV0ToVx : Prop :=
  ∀ (s : State) (x : Nibble),
    (indexBase s + x.toNat ≤ 0xFFF →
      ∃ t, exec (.ldVxMem x) s = .next t ∧
        (∀ k : Nibble, k.toNat ≤ x.toNat → t.getV k = Memory.get s.mem (indexBase s + k.toNat)) ∧
        t.i.toNat = (s.i.toNat + x.toNat + 1) % 65536 ∧ t.pc = s.pc + 2#16 ∧
        Untouched { index := true, regs := regsUpTo x } s t) ∧
    (indexBase s + x.toNat > 0xFFF →
      exec (.ldVxMem x) s = .next { s with mode := .faulted .dataRange (max (indexBase s) 0x1000) })

/-- FX65 is the inverse of FX55: with I put back, it gives V0..VX their stored values, whatever the registers held in
between (R90, R91). -/
def Obligations.BlockLoadInvertsBlockStore : Prop :=
  ∀ (s : State) (x : Nibble), Memory.wf s.mem = true → indexBase s + x.toNat ≤ 0xFFF →
    ∃ t, exec (.ldMemVx x) s = .next t ∧
      ∀ regs : Vector Byte 16, ∃ u, exec (.ldVxMem x) { t with i := s.i, v := regs } = .next u ∧
        (∀ k : Nibble, k.toNat ≤ x.toNat → u.getV k = s.getV k) ∧ u.i = t.i ∧ u.mem = t.mem

/-- A stored pair of bytes is fetched as the word with its first byte high, by the very next fetch of that address
(R51, R42, R43). -/
def Obligations.FetchSeesStoredBytes : Prop :=
  ∀ (s t : State) (x k : Nibble), Memory.wf s.mem = true → indexBase s + x.toNat ≤ 0xFFF →
    exec (.ldMemVx x) s = .next t → k.toNat + 1 ≤ x.toNat →
    fetchWord t.mem (indexBase s + k.toNat) = s.getV k ++ s.getV (k + 1#4)

/-! ### The display -/

/-- CLS: every pixel off, nothing else but the pc (R96). -/
def Obligations.ClearTurnsEveryPixelOff : Prop :=
  ∀ s : State, ∃ t, exec .cls s = .next t ∧ (∀ x y, x < 64 → y < 32 → Framebuffer.pixel t.fb x y = false) ∧
    t.pc = s.pc + 2#16 ∧ Untouched { display := true } s t

/-- DRW: every pixel is XORed with the sprite's bit there, the origin wrapped and the body clipped; VF is 1 exactly
if a 1 bit fell on a pixel that was on; nothing else changes. DATA_RANGE before any change if a row's address is
above 0xFFF. Bit 7 leftmost, the fault, and VF_ORDER are the spec's own decisions (R97, R94, R95; 92 D4, D8, D19,
D22, D23). -/
def Obligations.DrawXorsTheSprite : Prop :=
  ∀ (s : State) (x y n : Nibble) (x0 y0 : Nat), x0 = coordinate s x % 64 → y0 = coordinate s y % 32 →
    (n.toNat = 0 ∨ indexBase s + n.toNat ≤ 0x1000 →
      ∃ t, exec (.drw x y n) s = .next t ∧
        (∀ px py, px < 64 → py < 32 → Framebuffer.pixel t.fb px py =
          (Framebuffer.pixel s.fb px py ^^ spriteBit s.mem (indexBase s) n.toNat x0 y0 px py)) ∧
        ((∃ px py, px < 64 ∧ py < 32 ∧ Framebuffer.pixel s.fb px py = true ∧
          spriteBit s.mem (indexBase s) n.toNat x0 y0 px py = true) → t.getV vf = 0x01#8) ∧
        ((∀ px py, px < 64 → py < 32 → spriteBit s.mem (indexBase s) n.toNat x0 y0 px py = true →
          Framebuffer.pixel s.fb px py = false) → t.getV vf = 0x00#8) ∧
        t.pc = s.pc + 2#16 ∧ Untouched { regs := [vf], display := true } s t) ∧
    (0 < n.toNat → indexBase s + n.toNat > 0x1000 →
      exec (.drw x y n) s = .next { s with mode := .faulted .dataRange (max (indexBase s) 0x1000) })

/-- Drawing the same sprite twice at the same place restores the framebuffer, and the second draw sets VF exactly if
the sprite has a visible 1 bit over a pixel that was off before the first draw. R97's corner case says "any visible
1 bit", which its own pseudocode gives only where those pixels were off (log 17). -/
def Obligations.DrawingTwiceRestoresTheScreen : Prop :=
  ∀ (s : State) (x y n : Nibble), x ≠ vf → y ≠ vf → n.toNat = 0 ∨ indexBase s + n.toNat ≤ 0x1000 →
    ∃ t u, exec (.drw x y n) s = .next t ∧ exec (.drw x y n) t = .next u ∧ u.fb = s.fb ∧
      (u.getV vf = 0x01#8 ↔ ∃ px py, px < 64 ∧ py < 32 ∧ Framebuffer.pixel s.fb px py = false ∧
        spriteBit s.mem (indexBase s) n.toNat ((s.getV x).toNat % 64) ((s.getV y).toNat % 32) px py = true)

/-! ### Input and timers -/

/-- SKP and SKNP: skip by the latch bit VX names; KEY_RANGE with VX as info when VX is above 15, the spec's own
decision (R99, R100; 92 D10). -/
def Obligations.KeySkipsReadTheLatch : Prop :=
  ∀ (s : State) (x : Nibble) (k : Nat), (s.getV x).toNat = k →
    (k ≤ 15 →
      (∃ t, exec (.skp x) s = .next t ∧ t.pc = s.pc + (if s.latch.getLsbD k then 4#16 else 2#16) ∧
        Untouched {} s t) ∧
      (∃ t, exec (.sknp x) s = .next t ∧ t.pc = s.pc + (if s.latch.getLsbD k then 2#16 else 4#16) ∧
        Untouched {} s t)) ∧
    (k > 15 →
      exec (.skp x) s = .next { s with mode := .faulted .keyRange k } ∧
      exec (.sknp x) s = .next { s with mode := .faulted .keyRange k })

/-- LD Vx, K: with no key down the core waits, PC staying; with a key down the index of a pressed key is stored at
once (the lowest under KEY_PICK = lowest). Level-sensitivity and KEY_PICK are the spec's own decision
(R101; 92 D11). -/
def Obligations.KeyWaitStoresAPressedKey : Prop :=
  ∀ (s : State) (x : Nibble),
    (s.latch = 0#16 → exec (.ldVxK x) s = .next { s with mode := .awaitingKey x }) ∧
    (s.latch ≠ 0#16 →
      ∃ k t, exec (.ldVxK x) s = .next t ∧ k < 16 ∧ s.latch.getLsbD k = true ∧
        (s.params.keyPick = .lowest → ∀ j < k, s.latch.getLsbD j = false) ∧
        t.getV x = BitVec.ofNat 8 k ∧ t.pc = s.pc + 2#16 ∧ Untouched { regs := [x] } s t)

/-- LD Vx, DT; LD DT, Vx; LD ST, Vx (R102, R103, R104). -/
def Obligations.TimerAccessMovesOneByte : Prop :=
  ∀ (s : State) (x : Nibble),
    (∃ t, exec (.ldVxDt x) s = .next t ∧ t.getV x = s.dt ∧ t.pc = s.pc + 2#16 ∧ Untouched { regs := [x] } s t) ∧
    (∃ t, exec (.ldDtVx x) s = .next t ∧ t.dt = s.getV x ∧ t.pc = s.pc + 2#16 ∧ Untouched { delay := true } s t) ∧
    (∃ t, exec (.ldStVx x) s = .next t ∧ t.st = s.getV x ∧ t.pc = s.pc + 2#16 ∧ Untouched { sound := true } s t)
end

