-- ==== Sys2Proof/Laws/Decode.lean ====
section
/-!
SUPPORT. Words and their nibbles: a word is its four nibbles, and each field accessor gives its own nibble
(spec/00_scope.md R8, spec/30_encoding.md R53).
-/

namespace Sys2Proof

/-- A word put together from its nibbles again is the word. -/
theorem wordOfNibbles_split (w : Word) : wordOfNibbles (n0 w) (n1 w) (n2 w) (n3 w) = w := by
  apply BitVec.eq_of_getLsbD_eq
  intro i hi
  simp only [n0, n1, n2, n3, wordOfNibbles, BitVec.getLsbD_extractLsb', BitVec.getLsbD_append]
  interval_cases i <;> simp

@[simp] theorem n0_wordOfNibbles (a b c d : Nibble) : n0 (wordOfNibbles a b c d) = a := by
  apply BitVec.eq_of_getLsbD_eq
  intro i hi
  simp only [n0, wordOfNibbles, BitVec.getLsbD_extractLsb', BitVec.getLsbD_append]
  interval_cases i <;> simp

@[simp] theorem n1_wordOfNibbles (a b c d : Nibble) : n1 (wordOfNibbles a b c d) = b := by
  apply BitVec.eq_of_getLsbD_eq
  intro i hi
  simp only [n1, wordOfNibbles, BitVec.getLsbD_extractLsb', BitVec.getLsbD_append]
  interval_cases i <;> simp

@[simp] theorem n2_wordOfNibbles (a b c d : Nibble) : n2 (wordOfNibbles a b c d) = c := by
  apply BitVec.eq_of_getLsbD_eq
  intro i hi
  simp only [n2, wordOfNibbles, BitVec.getLsbD_extractLsb', BitVec.getLsbD_append]
  interval_cases i <;> simp

@[simp] theorem n3_wordOfNibbles (a b c d : Nibble) : n3 (wordOfNibbles a b c d) = d := by
  apply BitVec.eq_of_getLsbD_eq
  intro i hi
  simp only [n3, wordOfNibbles, BitVec.getLsbD_extractLsb', BitVec.getLsbD_append]
  interval_cases i <;> simp

/-- Decoding a word given by its nibbles. -/
theorem decode_wordOfNibbles (a b c d : Nibble) : decode (wordOfNibbles a b c d) = decodeNibbles a b c d := by
  simp [decode]

/-- The byte form oXNN by nibbles. -/
theorem byteForm_eq (a b : Nibble) (nn : Byte) :
    a ++ b ++ nn = wordOfNibbles a b (nn.extractLsb' 4 4) (nn.extractLsb' 0 4) := by
  apply BitVec.eq_of_getLsbD_eq
  intro i hi
  simp only [wordOfNibbles, BitVec.getLsbD_extractLsb', BitVec.getLsbD_append]
  interval_cases i <;> simp

/-- The address form oNNN by nibbles. -/
theorem addressForm_eq (a : Nibble) (nnn : Addr) :
    a ++ nnn = wordOfNibbles a (nnn.extractLsb' 8 4) (nnn.extractLsb' 4 4) (nnn.extractLsb' 0 4) := by
  apply BitVec.eq_of_getLsbD_eq
  intro i hi
  simp only [wordOfNibbles, BitVec.getLsbD_extractLsb', BitVec.getLsbD_append]
  interval_cases i <;> simp

/-- A byte is its two nibbles. -/
theorem byte_split (nn : Byte) : nn.extractLsb' 4 4 ++ nn.extractLsb' 0 4 = nn := by
  apply BitVec.eq_of_getLsbD_eq
  intro i hi
  simp only [BitVec.getLsbD_extractLsb', BitVec.getLsbD_append]
  interval_cases i <;> simp

/-- An address is its three nibbles. -/
theorem addr_split (nnn : Addr) : nnn.extractLsb' 8 4 ++ nnn.extractLsb' 4 4 ++ nnn.extractLsb' 0 4 = nnn := by
  apply BitVec.eq_of_getLsbD_eq
  intro i hi
  simp only [BitVec.getLsbD_extractLsb', BitVec.getLsbD_append]
  interval_cases i <;> simp

/-- The word stored as bytes and read back is the word (R42). -/
theorem decodeBytes_bytesOfWord (w : Word) (rest : List Byte) :
    decodeBytes (bytesOfWord w ++ rest) = .ok (decode w, rest) := by
  have h : w.extractLsb' 8 8 ++ w.extractLsb' 0 8 = w := by
    apply BitVec.eq_of_getLsbD_eq
    intro i hi
    simp only [BitVec.getLsbD_extractLsb', BitVec.getLsbD_append]
    interval_cases i <;> simp
  simp only [bytesOfWord, List.cons_append, List.nil_append, decodeBytes, h]

end Sys2Proof
end

