-- ==== Sys2Proof/Laws/State.lean ====
section
/-!
SUPPORT. One lemma per field per state update, true by rfl, so that no proof unfolds a record update.
-/

namespace Sys2Proof.Machine

section
variable (s : State) (r : Nibble) (x : Byte)
@[simp] theorem State.setV_v : (s.setV r x).v = s.v.set r.toNat x := rfl
@[simp] theorem State.setV_i : (s.setV r x).i = s.i := rfl
@[simp] theorem State.setV_pc : (s.setV r x).pc = s.pc := rfl
@[simp] theorem State.setV_sp : (s.setV r x).sp = s.sp := rfl
@[simp] theorem State.setV_stack : (s.setV r x).stack = s.stack := rfl
@[simp] theorem State.setV_dt : (s.setV r x).dt = s.dt := rfl
@[simp] theorem State.setV_st : (s.setV r x).st = s.st := rfl
@[simp] theorem State.setV_mem : (s.setV r x).mem = s.mem := rfl
@[simp] theorem State.setV_fb : (s.setV r x).fb = s.fb := rfl
@[simp] theorem State.setV_latch : (s.setV r x).latch = s.latch := rfl
@[simp] theorem State.setV_acc : (s.setV r x).acc = s.acc := rfl
@[simp] theorem State.setV_lastMs : (s.setV r x).lastMs = s.lastMs := rfl
@[simp] theorem State.setV_mode : (s.setV r x).mode = s.mode := rfl
@[simp] theorem State.setV_frameDone : (s.setV r x).frameDone = s.frameDone := rfl
@[simp] theorem State.setV_dbgUnknown : (s.setV r x).dbgUnknown = s.dbgUnknown := rfl
@[simp] theorem State.setV_rand8 : (s.setV r x).rand8 = s.rand8 := rfl
@[simp] theorem State.setV_params : (s.setV r x).params = s.params := rfl
@[simp] theorem State.setV_inputs : (s.setV r x).inputs = s.inputs := rfl
@[simp] theorem State.setV_frame : (s.setV r x).frame = s.frame := rfl
end

section
variable (s : State) (w : Word)
@[simp] theorem State.setI_v : (s.setI w).v = s.v := rfl
@[simp] theorem State.setI_i : (s.setI w).i = w := rfl
@[simp] theorem State.setI_pc : (s.setI w).pc = s.pc := rfl
@[simp] theorem State.setI_sp : (s.setI w).sp = s.sp := rfl
@[simp] theorem State.setI_stack : (s.setI w).stack = s.stack := rfl
@[simp] theorem State.setI_dt : (s.setI w).dt = s.dt := rfl
@[simp] theorem State.setI_st : (s.setI w).st = s.st := rfl
@[simp] theorem State.setI_mem : (s.setI w).mem = s.mem := rfl
@[simp] theorem State.setI_fb : (s.setI w).fb = s.fb := rfl
@[simp] theorem State.setI_latch : (s.setI w).latch = s.latch := rfl
@[simp] theorem State.setI_acc : (s.setI w).acc = s.acc := rfl
@[simp] theorem State.setI_lastMs : (s.setI w).lastMs = s.lastMs := rfl
@[simp] theorem State.setI_mode : (s.setI w).mode = s.mode := rfl
@[simp] theorem State.setI_frameDone : (s.setI w).frameDone = s.frameDone := rfl
@[simp] theorem State.setI_dbgUnknown : (s.setI w).dbgUnknown = s.dbgUnknown := rfl
@[simp] theorem State.setI_rand8 : (s.setI w).rand8 = s.rand8 := rfl
@[simp] theorem State.setI_params : (s.setI w).params = s.params := rfl
@[simp] theorem State.setI_inputs : (s.setI w).inputs = s.inputs := rfl
@[simp] theorem State.setI_frame : (s.setI w).frame = s.frame := rfl
@[simp] theorem State.setI_getV (q : Nibble) : (s.setI w).getV q = s.getV q := rfl
end

section
variable (s : State) (x : Byte)
@[simp] theorem State.setDt_v : (s.setDt x).v = s.v := rfl
@[simp] theorem State.setDt_i : (s.setDt x).i = s.i := rfl
@[simp] theorem State.setDt_pc : (s.setDt x).pc = s.pc := rfl
@[simp] theorem State.setDt_sp : (s.setDt x).sp = s.sp := rfl
@[simp] theorem State.setDt_stack : (s.setDt x).stack = s.stack := rfl
@[simp] theorem State.setDt_dt : (s.setDt x).dt = x := rfl
@[simp] theorem State.setDt_st : (s.setDt x).st = s.st := rfl
@[simp] theorem State.setDt_mem : (s.setDt x).mem = s.mem := rfl
@[simp] theorem State.setDt_fb : (s.setDt x).fb = s.fb := rfl
@[simp] theorem State.setDt_latch : (s.setDt x).latch = s.latch := rfl
@[simp] theorem State.setDt_acc : (s.setDt x).acc = s.acc := rfl
@[simp] theorem State.setDt_lastMs : (s.setDt x).lastMs = s.lastMs := rfl
@[simp] theorem State.setDt_mode : (s.setDt x).mode = s.mode := rfl
@[simp] theorem State.setDt_frameDone : (s.setDt x).frameDone = s.frameDone := rfl
@[simp] theorem State.setDt_dbgUnknown : (s.setDt x).dbgUnknown = s.dbgUnknown := rfl
@[simp] theorem State.setDt_rand8 : (s.setDt x).rand8 = s.rand8 := rfl
@[simp] theorem State.setDt_params : (s.setDt x).params = s.params := rfl
@[simp] theorem State.setDt_inputs : (s.setDt x).inputs = s.inputs := rfl
@[simp] theorem State.setDt_frame : (s.setDt x).frame = s.frame := rfl
@[simp] theorem State.setDt_getV (q : Nibble) : (s.setDt x).getV q = s.getV q := rfl
end

section
variable (s : State) (x : Byte)
@[simp] theorem State.setSt_v : (s.setSt x).v = s.v := rfl
@[simp] theorem State.setSt_i : (s.setSt x).i = s.i := rfl
@[simp] theorem State.setSt_pc : (s.setSt x).pc = s.pc := rfl
@[simp] theorem State.setSt_sp : (s.setSt x).sp = s.sp := rfl
@[simp] theorem State.setSt_stack : (s.setSt x).stack = s.stack := rfl
@[simp] theorem State.setSt_dt : (s.setSt x).dt = s.dt := rfl
@[simp] theorem State.setSt_st : (s.setSt x).st = x := rfl
@[simp] theorem State.setSt_mem : (s.setSt x).mem = s.mem := rfl
@[simp] theorem State.setSt_fb : (s.setSt x).fb = s.fb := rfl
@[simp] theorem State.setSt_latch : (s.setSt x).latch = s.latch := rfl
@[simp] theorem State.setSt_acc : (s.setSt x).acc = s.acc := rfl
@[simp] theorem State.setSt_lastMs : (s.setSt x).lastMs = s.lastMs := rfl
@[simp] theorem State.setSt_mode : (s.setSt x).mode = s.mode := rfl
@[simp] theorem State.setSt_frameDone : (s.setSt x).frameDone = s.frameDone := rfl
@[simp] theorem State.setSt_dbgUnknown : (s.setSt x).dbgUnknown = s.dbgUnknown := rfl
@[simp] theorem State.setSt_rand8 : (s.setSt x).rand8 = s.rand8 := rfl
@[simp] theorem State.setSt_params : (s.setSt x).params = s.params := rfl
@[simp] theorem State.setSt_inputs : (s.setSt x).inputs = s.inputs := rfl
@[simp] theorem State.setSt_frame : (s.setSt x).frame = s.frame := rfl
@[simp] theorem State.setSt_getV (q : Nibble) : (s.setSt x).getV q = s.getV q := rfl
end

section
variable (s : State) (m : Memory)
@[simp] theorem State.setMem_v : (s.setMem m).v = s.v := rfl
@[simp] theorem State.setMem_i : (s.setMem m).i = s.i := rfl
@[simp] theorem State.setMem_pc : (s.setMem m).pc = s.pc := rfl
@[simp] theorem State.setMem_sp : (s.setMem m).sp = s.sp := rfl
@[simp] theorem State.setMem_stack : (s.setMem m).stack = s.stack := rfl
@[simp] theorem State.setMem_dt : (s.setMem m).dt = s.dt := rfl
@[simp] theorem State.setMem_st : (s.setMem m).st = s.st := rfl
@[simp] theorem State.setMem_mem : (s.setMem m).mem = m := rfl
@[simp] theorem State.setMem_fb : (s.setMem m).fb = s.fb := rfl
@[simp] theorem State.setMem_latch : (s.setMem m).latch = s.latch := rfl
@[simp] theorem State.setMem_acc : (s.setMem m).acc = s.acc := rfl
@[simp] theorem State.setMem_lastMs : (s.setMem m).lastMs = s.lastMs := rfl
@[simp] theorem State.setMem_mode : (s.setMem m).mode = s.mode := rfl
@[simp] theorem State.setMem_frameDone : (s.setMem m).frameDone = s.frameDone := rfl
@[simp] theorem State.setMem_dbgUnknown : (s.setMem m).dbgUnknown = s.dbgUnknown := rfl
@[simp] theorem State.setMem_rand8 : (s.setMem m).rand8 = s.rand8 := rfl
@[simp] theorem State.setMem_params : (s.setMem m).params = s.params := rfl
@[simp] theorem State.setMem_inputs : (s.setMem m).inputs = s.inputs := rfl
@[simp] theorem State.setMem_frame : (s.setMem m).frame = s.frame := rfl
@[simp] theorem State.setMem_getV (q : Nibble) : (s.setMem m).getV q = s.getV q := rfl
end

section
variable (s : State) (g : Framebuffer)
@[simp] theorem State.setFb_v : (s.setFb g).v = s.v := rfl
@[simp] theorem State.setFb_i : (s.setFb g).i = s.i := rfl
@[simp] theorem State.setFb_pc : (s.setFb g).pc = s.pc := rfl
@[simp] theorem State.setFb_sp : (s.setFb g).sp = s.sp := rfl
@[simp] theorem State.setFb_stack : (s.setFb g).stack = s.stack := rfl
@[simp] theorem State.setFb_dt : (s.setFb g).dt = s.dt := rfl
@[simp] theorem State.setFb_st : (s.setFb g).st = s.st := rfl
@[simp] theorem State.setFb_mem : (s.setFb g).mem = s.mem := rfl
@[simp] theorem State.setFb_fb : (s.setFb g).fb = g := rfl
@[simp] theorem State.setFb_latch : (s.setFb g).latch = s.latch := rfl
@[simp] theorem State.setFb_acc : (s.setFb g).acc = s.acc := rfl
@[simp] theorem State.setFb_lastMs : (s.setFb g).lastMs = s.lastMs := rfl
@[simp] theorem State.setFb_mode : (s.setFb g).mode = s.mode := rfl
@[simp] theorem State.setFb_frameDone : (s.setFb g).frameDone = s.frameDone := rfl
@[simp] theorem State.setFb_dbgUnknown : (s.setFb g).dbgUnknown = s.dbgUnknown := rfl
@[simp] theorem State.setFb_rand8 : (s.setFb g).rand8 = s.rand8 := rfl
@[simp] theorem State.setFb_params : (s.setFb g).params = s.params := rfl
@[simp] theorem State.setFb_inputs : (s.setFb g).inputs = s.inputs := rfl
@[simp] theorem State.setFb_frame : (s.setFb g).frame = s.frame := rfl
@[simp] theorem State.setFb_getV (q : Nibble) : (s.setFb g).getV q = s.getV q := rfl
end

section
variable (s : State) (m : Mode)
@[simp] theorem State.setMode_v : (s.setMode m).v = s.v := rfl
@[simp] theorem State.setMode_i : (s.setMode m).i = s.i := rfl
@[simp] theorem State.setMode_pc : (s.setMode m).pc = s.pc := rfl
@[simp] theorem State.setMode_sp : (s.setMode m).sp = s.sp := rfl
@[simp] theorem State.setMode_stack : (s.setMode m).stack = s.stack := rfl
@[simp] theorem State.setMode_dt : (s.setMode m).dt = s.dt := rfl
@[simp] theorem State.setMode_st : (s.setMode m).st = s.st := rfl
@[simp] theorem State.setMode_mem : (s.setMode m).mem = s.mem := rfl
@[simp] theorem State.setMode_fb : (s.setMode m).fb = s.fb := rfl
@[simp] theorem State.setMode_latch : (s.setMode m).latch = s.latch := rfl
@[simp] theorem State.setMode_acc : (s.setMode m).acc = s.acc := rfl
@[simp] theorem State.setMode_lastMs : (s.setMode m).lastMs = s.lastMs := rfl
@[simp] theorem State.setMode_mode : (s.setMode m).mode = m := rfl
@[simp] theorem State.setMode_frameDone : (s.setMode m).frameDone = s.frameDone := rfl
@[simp] theorem State.setMode_dbgUnknown : (s.setMode m).dbgUnknown = s.dbgUnknown := rfl
@[simp] theorem State.setMode_rand8 : (s.setMode m).rand8 = s.rand8 := rfl
@[simp] theorem State.setMode_params : (s.setMode m).params = s.params := rfl
@[simp] theorem State.setMode_inputs : (s.setMode m).inputs = s.inputs := rfl
@[simp] theorem State.setMode_frame : (s.setMode m).frame = s.frame := rfl
@[simp] theorem State.setMode_getV (q : Nibble) : (s.setMode m).getV q = s.getV q := rfl
end

section
variable (s : State)
@[simp] theorem State.markUnknown_v : (s.markUnknown).v = s.v := rfl
@[simp] theorem State.markUnknown_i : (s.markUnknown).i = s.i := rfl
@[simp] theorem State.markUnknown_pc : (s.markUnknown).pc = s.pc := rfl
@[simp] theorem State.markUnknown_sp : (s.markUnknown).sp = s.sp := rfl
@[simp] theorem State.markUnknown_stack : (s.markUnknown).stack = s.stack := rfl
@[simp] theorem State.markUnknown_dt : (s.markUnknown).dt = s.dt := rfl
@[simp] theorem State.markUnknown_st : (s.markUnknown).st = s.st := rfl
@[simp] theorem State.markUnknown_mem : (s.markUnknown).mem = s.mem := rfl
@[simp] theorem State.markUnknown_fb : (s.markUnknown).fb = s.fb := rfl
@[simp] theorem State.markUnknown_latch : (s.markUnknown).latch = s.latch := rfl
@[simp] theorem State.markUnknown_acc : (s.markUnknown).acc = s.acc := rfl
@[simp] theorem State.markUnknown_lastMs : (s.markUnknown).lastMs = s.lastMs := rfl
@[simp] theorem State.markUnknown_mode : (s.markUnknown).mode = s.mode := rfl
@[simp] theorem State.markUnknown_frameDone : (s.markUnknown).frameDone = s.frameDone := rfl
@[simp] theorem State.markUnknown_dbgUnknown : (s.markUnknown).dbgUnknown = true := rfl
@[simp] theorem State.markUnknown_rand8 : (s.markUnknown).rand8 = s.rand8 := rfl
@[simp] theorem State.markUnknown_params : (s.markUnknown).params = s.params := rfl
@[simp] theorem State.markUnknown_inputs : (s.markUnknown).inputs = s.inputs := rfl
@[simp] theorem State.markUnknown_frame : (s.markUnknown).frame = s.frame := rfl
@[simp] theorem State.markUnknown_getV (q : Nibble) : (s.markUnknown).getV q = s.getV q := rfl
end

section
variable (s : State) (w : Word)
@[simp] theorem State.setPc_v : (s.setPc w).v = s.v := rfl
@[simp] theorem State.setPc_i : (s.setPc w).i = s.i := rfl
@[simp] theorem State.setPc_pc : (s.setPc w).pc = w := rfl
@[simp] theorem State.setPc_sp : (s.setPc w).sp = s.sp := rfl
@[simp] theorem State.setPc_stack : (s.setPc w).stack = s.stack := rfl
@[simp] theorem State.setPc_dt : (s.setPc w).dt = s.dt := rfl
@[simp] theorem State.setPc_st : (s.setPc w).st = s.st := rfl
@[simp] theorem State.setPc_mem : (s.setPc w).mem = s.mem := rfl
@[simp] theorem State.setPc_fb : (s.setPc w).fb = s.fb := rfl
@[simp] theorem State.setPc_latch : (s.setPc w).latch = s.latch := rfl
@[simp] theorem State.setPc_acc : (s.setPc w).acc = s.acc := rfl
@[simp] theorem State.setPc_lastMs : (s.setPc w).lastMs = s.lastMs := rfl
@[simp] theorem State.setPc_mode : (s.setPc w).mode = s.mode := rfl
@[simp] theorem State.setPc_frameDone : (s.setPc w).frameDone = s.frameDone := rfl
@[simp] theorem State.setPc_dbgUnknown : (s.setPc w).dbgUnknown = s.dbgUnknown := rfl
@[simp] theorem State.setPc_rand8 : (s.setPc w).rand8 = s.rand8 := rfl
@[simp] theorem State.setPc_params : (s.setPc w).params = s.params := rfl
@[simp] theorem State.setPc_inputs : (s.setPc w).inputs = s.inputs := rfl
@[simp] theorem State.setPc_frame : (s.setPc w).frame = s.frame := rfl
@[simp] theorem State.setPc_getV (q : Nibble) : (s.setPc w).getV q = s.getV q := rfl
end

section
variable (s : State)
@[simp] theorem State.advance_v : (s.advance).v = s.v := rfl
@[simp] theorem State.advance_i : (s.advance).i = s.i := rfl
@[simp] theorem State.advance_pc : (s.advance).pc = s.pc + 2#16 := rfl
@[simp] theorem State.advance_sp : (s.advance).sp = s.sp := rfl
@[simp] theorem State.advance_stack : (s.advance).stack = s.stack := rfl
@[simp] theorem State.advance_dt : (s.advance).dt = s.dt := rfl
@[simp] theorem State.advance_st : (s.advance).st = s.st := rfl
@[simp] theorem State.advance_mem : (s.advance).mem = s.mem := rfl
@[simp] theorem State.advance_fb : (s.advance).fb = s.fb := rfl
@[simp] theorem State.advance_latch : (s.advance).latch = s.latch := rfl
@[simp] theorem State.advance_acc : (s.advance).acc = s.acc := rfl
@[simp] theorem State.advance_lastMs : (s.advance).lastMs = s.lastMs := rfl
@[simp] theorem State.advance_mode : (s.advance).mode = s.mode := rfl
@[simp] theorem State.advance_frameDone : (s.advance).frameDone = s.frameDone := rfl
@[simp] theorem State.advance_dbgUnknown : (s.advance).dbgUnknown = s.dbgUnknown := rfl
@[simp] theorem State.advance_rand8 : (s.advance).rand8 = s.rand8 := rfl
@[simp] theorem State.advance_params : (s.advance).params = s.params := rfl
@[simp] theorem State.advance_inputs : (s.advance).inputs = s.inputs := rfl
@[simp] theorem State.advance_frame : (s.advance).frame = s.frame := rfl
@[simp] theorem State.advance_getV (q : Nibble) : (s.advance).getV q = s.getV q := rfl
end

section
variable (s : State)
@[simp] theorem State.skip_v : (s.skip).v = s.v := rfl
@[simp] theorem State.skip_i : (s.skip).i = s.i := rfl
@[simp] theorem State.skip_pc : (s.skip).pc = s.pc + 2#16 := rfl
@[simp] theorem State.skip_sp : (s.skip).sp = s.sp := rfl
@[simp] theorem State.skip_stack : (s.skip).stack = s.stack := rfl
@[simp] theorem State.skip_dt : (s.skip).dt = s.dt := rfl
@[simp] theorem State.skip_st : (s.skip).st = s.st := rfl
@[simp] theorem State.skip_mem : (s.skip).mem = s.mem := rfl
@[simp] theorem State.skip_fb : (s.skip).fb = s.fb := rfl
@[simp] theorem State.skip_latch : (s.skip).latch = s.latch := rfl
@[simp] theorem State.skip_acc : (s.skip).acc = s.acc := rfl
@[simp] theorem State.skip_lastMs : (s.skip).lastMs = s.lastMs := rfl
@[simp] theorem State.skip_mode : (s.skip).mode = s.mode := rfl
@[simp] theorem State.skip_frameDone : (s.skip).frameDone = s.frameDone := rfl
@[simp] theorem State.skip_dbgUnknown : (s.skip).dbgUnknown = s.dbgUnknown := rfl
@[simp] theorem State.skip_rand8 : (s.skip).rand8 = s.rand8 := rfl
@[simp] theorem State.skip_params : (s.skip).params = s.params := rfl
@[simp] theorem State.skip_inputs : (s.skip).inputs = s.inputs := rfl
@[simp] theorem State.skip_frame : (s.skip).frame = s.frame := rfl
@[simp] theorem State.skip_getV (q : Nibble) : (s.skip).getV q = s.getV q := rfl
end

section
variable (s : State) (w : Word)
@[simp] theorem State.push_v : (s.push w).v = s.v := rfl
@[simp] theorem State.push_i : (s.push w).i = s.i := rfl
@[simp] theorem State.push_pc : (s.push w).pc = s.pc := rfl
@[simp] theorem State.push_sp : (s.push w).sp = s.sp + 1#8 := rfl
@[simp] theorem State.push_stack : (s.push w).stack = s.stack.setIfInBounds (s.sp.toNat + 1) (slotValue s.params.stackSlotWidth w) := rfl
@[simp] theorem State.push_dt : (s.push w).dt = s.dt := rfl
@[simp] theorem State.push_st : (s.push w).st = s.st := rfl
@[simp] theorem State.push_mem : (s.push w).mem = s.mem := rfl
@[simp] theorem State.push_fb : (s.push w).fb = s.fb := rfl
@[simp] theorem State.push_latch : (s.push w).latch = s.latch := rfl
@[simp] theorem State.push_acc : (s.push w).acc = s.acc := rfl
@[simp] theorem State.push_lastMs : (s.push w).lastMs = s.lastMs := rfl
@[simp] theorem State.push_mode : (s.push w).mode = s.mode := rfl
@[simp] theorem State.push_frameDone : (s.push w).frameDone = s.frameDone := rfl
@[simp] theorem State.push_dbgUnknown : (s.push w).dbgUnknown = s.dbgUnknown := rfl
@[simp] theorem State.push_rand8 : (s.push w).rand8 = s.rand8 := rfl
@[simp] theorem State.push_params : (s.push w).params = s.params := rfl
@[simp] theorem State.push_inputs : (s.push w).inputs = s.inputs := rfl
@[simp] theorem State.push_frame : (s.push w).frame = s.frame := rfl
@[simp] theorem State.push_getV (q : Nibble) : (s.push w).getV q = s.getV q := rfl
end

section
variable (s : State)
@[simp] theorem State.dropTop_v : (s.dropTop).v = s.v := rfl
@[simp] theorem State.dropTop_i : (s.dropTop).i = s.i := rfl
@[simp] theorem State.dropTop_pc : (s.dropTop).pc = s.pc := rfl
@[simp] theorem State.dropTop_sp : (s.dropTop).sp = s.sp - 1#8 := rfl
@[simp] theorem State.dropTop_stack : (s.dropTop).stack = s.stack := rfl
@[simp] theorem State.dropTop_dt : (s.dropTop).dt = s.dt := rfl
@[simp] theorem State.dropTop_st : (s.dropTop).st = s.st := rfl
@[simp] theorem State.dropTop_mem : (s.dropTop).mem = s.mem := rfl
@[simp] theorem State.dropTop_fb : (s.dropTop).fb = s.fb := rfl
@[simp] theorem State.dropTop_latch : (s.dropTop).latch = s.latch := rfl
@[simp] theorem State.dropTop_acc : (s.dropTop).acc = s.acc := rfl
@[simp] theorem State.dropTop_lastMs : (s.dropTop).lastMs = s.lastMs := rfl
@[simp] theorem State.dropTop_mode : (s.dropTop).mode = s.mode := rfl
@[simp] theorem State.dropTop_frameDone : (s.dropTop).frameDone = s.frameDone := rfl
@[simp] theorem State.dropTop_dbgUnknown : (s.dropTop).dbgUnknown = s.dbgUnknown := rfl
@[simp] theorem State.dropTop_rand8 : (s.dropTop).rand8 = s.rand8 := rfl
@[simp] theorem State.dropTop_params : (s.dropTop).params = s.params := rfl
@[simp] theorem State.dropTop_inputs : (s.dropTop).inputs = s.inputs := rfl
@[simp] theorem State.dropTop_frame : (s.dropTop).frame = s.frame := rfl
@[simp] theorem State.dropTop_getV (q : Nibble) : (s.dropTop).getV q = s.getV q := rfl
end

section
variable (s : State) (c : FaultCode) (n : Nat)
@[simp] theorem State.takeFault_v : (s.takeFault c n).v = s.v := rfl
@[simp] theorem State.takeFault_i : (s.takeFault c n).i = s.i := rfl
@[simp] theorem State.takeFault_pc : (s.takeFault c n).pc = s.pc := rfl
@[simp] theorem State.takeFault_sp : (s.takeFault c n).sp = s.sp := rfl
@[simp] theorem State.takeFault_stack : (s.takeFault c n).stack = s.stack := rfl
@[simp] theorem State.takeFault_dt : (s.takeFault c n).dt = s.dt := rfl
@[simp] theorem State.takeFault_st : (s.takeFault c n).st = s.st := rfl
@[simp] theorem State.takeFault_mem : (s.takeFault c n).mem = s.mem := rfl
@[simp] theorem State.takeFault_fb : (s.takeFault c n).fb = s.fb := rfl
@[simp] theorem State.takeFault_latch : (s.takeFault c n).latch = s.latch := rfl
@[simp] theorem State.takeFault_acc : (s.takeFault c n).acc = s.acc := rfl
@[simp] theorem State.takeFault_lastMs : (s.takeFault c n).lastMs = s.lastMs := rfl
@[simp] theorem State.takeFault_mode : (s.takeFault c n).mode = .faulted c n := rfl
@[simp] theorem State.takeFault_frameDone : (s.takeFault c n).frameDone = s.frameDone := rfl
@[simp] theorem State.takeFault_dbgUnknown : (s.takeFault c n).dbgUnknown = s.dbgUnknown := rfl
@[simp] theorem State.takeFault_rand8 : (s.takeFault c n).rand8 = s.rand8 := rfl
@[simp] theorem State.takeFault_params : (s.takeFault c n).params = s.params := rfl
@[simp] theorem State.takeFault_inputs : (s.takeFault c n).inputs = s.inputs := rfl
@[simp] theorem State.takeFault_frame : (s.takeFault c n).frame = s.frame := rfl
@[simp] theorem State.takeFault_getV (q : Nibble) : (s.takeFault c n).getV q = s.getV q := rfl
end

section
variable (s : State)
@[simp] theorem State.takeFrame_v : (s.takeFrame).v = s.v := rfl
@[simp] theorem State.takeFrame_i : (s.takeFrame).i = s.i := rfl
@[simp] theorem State.takeFrame_pc : (s.takeFrame).pc = s.pc := rfl
@[simp] theorem State.takeFrame_sp : (s.takeFrame).sp = s.sp := rfl
@[simp] theorem State.takeFrame_stack : (s.takeFrame).stack = s.stack := rfl
@[simp] theorem State.takeFrame_dt : (s.takeFrame).dt = s.dt := rfl
@[simp] theorem State.takeFrame_st : (s.takeFrame).st = s.st := rfl
@[simp] theorem State.takeFrame_mem : (s.takeFrame).mem = s.mem := rfl
@[simp] theorem State.takeFrame_fb : (s.takeFrame).fb = s.fb := rfl
@[simp] theorem State.takeFrame_latch : (s.takeFrame).latch = s.latch := rfl
@[simp] theorem State.takeFrame_acc : (s.takeFrame).acc = s.acc := rfl
@[simp] theorem State.takeFrame_lastMs : (s.takeFrame).lastMs = s.lastMs := rfl
@[simp] theorem State.takeFrame_mode : (s.takeFrame).mode = s.mode := rfl
@[simp] theorem State.takeFrame_frameDone : (s.takeFrame).frameDone = false := rfl
@[simp] theorem State.takeFrame_dbgUnknown : (s.takeFrame).dbgUnknown = false := rfl
@[simp] theorem State.takeFrame_rand8 : (s.takeFrame).rand8 = s.rand8 := rfl
@[simp] theorem State.takeFrame_params : (s.takeFrame).params = s.params := rfl
@[simp] theorem State.takeFrame_inputs : (s.takeFrame).inputs = s.inputs.tail := rfl
@[simp] theorem State.takeFrame_frame : (s.takeFrame).frame = s.frame + 1 := rfl
@[simp] theorem State.takeFrame_getV (q : Nibble) : (s.takeFrame).getV q = s.getV q := rfl
end

section
variable (s : State) (f : FrameIn)
@[simp] theorem State.refreshLatch_v : (s.refreshLatch f).v = s.v := rfl
@[simp] theorem State.refreshLatch_i : (s.refreshLatch f).i = s.i := rfl
@[simp] theorem State.refreshLatch_pc : (s.refreshLatch f).pc = s.pc := rfl
@[simp] theorem State.refreshLatch_sp : (s.refreshLatch f).sp = s.sp := rfl
@[simp] theorem State.refreshLatch_stack : (s.refreshLatch f).stack = s.stack := rfl
@[simp] theorem State.refreshLatch_dt : (s.refreshLatch f).dt = s.dt := rfl
@[simp] theorem State.refreshLatch_st : (s.refreshLatch f).st = s.st := rfl
@[simp] theorem State.refreshLatch_mem : (s.refreshLatch f).mem = s.mem := rfl
@[simp] theorem State.refreshLatch_fb : (s.refreshLatch f).fb = s.fb := rfl
@[simp] theorem State.refreshLatch_latch : (s.refreshLatch f).latch = f.keys := rfl
@[simp] theorem State.refreshLatch_acc : (s.refreshLatch f).acc = s.acc := rfl
@[simp] theorem State.refreshLatch_lastMs : (s.refreshLatch f).lastMs = s.lastMs := rfl
@[simp] theorem State.refreshLatch_mode : (s.refreshLatch f).mode = s.mode := rfl
@[simp] theorem State.refreshLatch_frameDone : (s.refreshLatch f).frameDone = s.frameDone := rfl
@[simp] theorem State.refreshLatch_dbgUnknown : (s.refreshLatch f).dbgUnknown = s.dbgUnknown := rfl
@[simp] theorem State.refreshLatch_rand8 : (s.refreshLatch f).rand8 = s.rand8 := rfl
@[simp] theorem State.refreshLatch_params : (s.refreshLatch f).params = s.params := rfl
@[simp] theorem State.refreshLatch_inputs : (s.refreshLatch f).inputs = s.inputs := rfl
@[simp] theorem State.refreshLatch_frame : (s.refreshLatch f).frame = s.frame := rfl
@[simp] theorem State.refreshLatch_getV (q : Nibble) : (s.refreshLatch f).getV q = s.getV q := rfl
end

section
variable (s : State) (f : FrameIn)
@[simp] theorem State.openFrame_v : (s.openFrame f).v = s.v := rfl
@[simp] theorem State.openFrame_i : (s.openFrame f).i = s.i := rfl
@[simp] theorem State.openFrame_pc : (s.openFrame f).pc = s.pc := rfl
@[simp] theorem State.openFrame_sp : (s.openFrame f).sp = s.sp := rfl
@[simp] theorem State.openFrame_stack : (s.openFrame f).stack = s.stack := rfl
@[simp] theorem State.openFrame_dt : (s.openFrame f).dt = s.dt := rfl
@[simp] theorem State.openFrame_st : (s.openFrame f).st = s.st := rfl
@[simp] theorem State.openFrame_mem : (s.openFrame f).mem = s.mem := rfl
@[simp] theorem State.openFrame_fb : (s.openFrame f).fb = s.fb := rfl
@[simp] theorem State.openFrame_latch : (s.openFrame f).latch = f.keys := rfl
@[simp] theorem State.openFrame_acc : (s.openFrame f).acc = s.acc := rfl
@[simp] theorem State.openFrame_lastMs : (s.openFrame f).lastMs = s.lastMs := rfl
@[simp] theorem State.openFrame_mode : (s.openFrame f).mode = s.mode := rfl
@[simp] theorem State.openFrame_frameDone : (s.openFrame f).frameDone = false := rfl
@[simp] theorem State.openFrame_dbgUnknown : (s.openFrame f).dbgUnknown = false := rfl
@[simp] theorem State.openFrame_rand8 : (s.openFrame f).rand8 = f.rand8 := rfl
@[simp] theorem State.openFrame_params : (s.openFrame f).params = s.params := rfl
@[simp] theorem State.openFrame_inputs : (s.openFrame f).inputs = s.inputs.tail := rfl
@[simp] theorem State.openFrame_frame : (s.openFrame f).frame = s.frame + 1 := rfl
@[simp] theorem State.openFrame_getV (q : Nibble) : (s.openFrame f).getV q = s.getV q := rfl
end

end Sys2Proof.Machine
end

