-- ==== Sys2Proof/Laws/Registers.lean ====
section
/-!
SUPPORT. The register file: what a read gives after a write (spec/10_state.md R17).
-/

namespace Sys2Proof.Machine

@[simp] theorem State.getV_setV_same (s : State) (r : Nibble) (x : Byte) : (s.setV r x).getV r = x := by
  simp [State.getV, State.setV]

theorem State.getV_setV (s : State) (r q : Nibble) (x : Byte) :
    (s.setV r x).getV q = if q = r then x else s.getV q := by
  by_cases h : q = r
  · subst h; simp
  · have : r.toNat ≠ q.toNat := fun e => h (BitVec.eq_of_toNat_eq e.symm)
    simp [State.getV, State.setV, h, this]

@[simp] theorem State.getV_setV_ne (s : State) (r q : Nibble) (x : Byte) (h : q ≠ r) :
    (s.setV r x).getV q = s.getV q := by
  simp [State.getV_setV, h]

/-- A register by its number, as the loops of FX55 and FX65 count them. -/
theorem State.getV_ofNat (s : State) (k : Nat) (h : k < 16) : s.getV (BitVec.ofNat 4 k) = s.v[k] := by
  simp [State.getV, Nat.mod_eq_of_lt h]

/-- V0..V(n-1) as a list, element by element. -/
theorem State.firstRegs_getElem? (s : State) (n k : Nat) :
    (s.firstRegs n)[k]? = if k < n then s.v[k]? else none := by
  simp [State.firstRegs, List.getElem?_take]

@[simp] theorem State.firstRegs_length (s : State) (n : Nat) : (s.firstRegs n).length = min n 16 := by
  simp [State.firstRegs]

/-- Writing consecutive registers changes the register file only. -/
theorem State.setRegsFrom_eq (xs : List Byte) : ∀ (s : State) (k : Nat),
    s.setRegsFrom k xs = { s with v := (s.setRegsFrom k xs).v } := by
  induction xs with
  | nil => intro s k; rfl
  | cons x xs ih => intro s k; simp only [State.setRegsFrom]; rw [ih]

/-- Register j after writing the list xs from register k up. -/
theorem State.setRegsFrom_v (xs : List Byte) : ∀ (s : State) (k j : Nat),
    (s.setRegsFrom k xs).v[j]? = if k ≤ j ∧ j < k + xs.length ∧ j < 16 then xs[j - k]? else s.v[j]? := by
  induction xs with
  | nil => intro s k j; simp only [State.setRegsFrom, List.length_nil]; split <;> first | omega | rfl
  | cons x xs ih =>
    intro s k j
    simp only [State.setRegsFrom, ih, List.length_cons]
    by_cases h1 : j = k
    · subst h1
      by_cases h2 : j < 16
      · rw [if_neg (by omega), if_pos (by omega)]
        simp [h2]
      · rw [if_neg (by omega), if_neg (by omega)]
        simp [h2]
    · rw [Vector.getElem?_setIfInBounds_ne (by omega)]
      by_cases h2 : k + 1 ≤ j ∧ j < k + 1 + xs.length ∧ j < 16
      · rw [if_pos h2, if_pos (by omega)]
        obtain ⟨n, hn⟩ : ∃ n, j - k = n + 1 := ⟨j - k - 1, by omega⟩
        rw [hn, List.getElem?_cons_succ]
        congr 1; omega
      · rw [if_neg h2, if_neg (by omega)]

/-- What register k holds after consecutive registers from V0 up were written. -/
theorem State.setRegsFrom_getV (s : State) (xs : List Byte) (k : Nibble) :
    (s.setRegsFrom 0 xs).getV k = if k.toNat < xs.length then xs.getD k.toNat 0 else s.getV k := by
  have h := State.setRegsFrom_v xs s 0 k.toNat
  have hk := k.isLt
  simp only [Nat.zero_le, true_and, hk, and_true, Nat.zero_add, Nat.sub_zero] at h
  have h1 : (s.setRegsFrom 0 xs).v[k.toNat]? = some ((s.setRegsFrom 0 xs).getV k) := by simp [State.getV, hk]
  have h2 : s.v[k.toNat]? = some (s.getV k) := by simp [State.getV, hk]
  rw [h1, h2] at h
  split at h
  · next hlt => rw [if_pos hlt, List.getD_eq_getElem?_getD, ← h]; rfl
  · next hlt => rw [if_neg hlt]; exact Option.some.inj h

/-- Entry k of the first n registers is Vk. -/
theorem State.firstRegs_getD (s : State) (n : Nat) (k : Nibble) (h : k.toNat < n) :
    (s.firstRegs n).getD k.toNat 0 = s.getV k := by
  have hk := k.isLt
  rw [List.getD_eq_getElem?_getD, State.firstRegs_getElem?, if_pos h]
  simp [State.getV, hk]

end Sys2Proof.Machine
end

