-- ==== Sys2Proof/Laws/Memory.lean ====
section
/-!
SUPPORT. Memory: every operation keeps the canonical form, a read after a write gives the value written, and a
write leaves every other place alone (spec/20_memory.md R37 to R48).
-/

namespace Sys2Proof.Machine

theorem Memory.wfFrom_mono {lo lo' : Nat} (h : lo' ≤ lo) : ∀ {m : Memory}, Memory.wfFrom lo m = true →
    Memory.wfFrom lo' m = true
  | [], _ => rfl
  | (a, x) :: m, hw => by
    simp only [Memory.wfFrom, Bool.and_eq_true, decide_eq_true_eq] at hw ⊢
    exact ⟨⟨⟨by omega, hw.1.1.2⟩, hw.1.2⟩, hw.2⟩

/-- Below the lowest listed address every byte is unlisted. -/
theorem Memory.get_below {lo a : Nat} (h : a < lo) : ∀ {m : Memory}, Memory.wfFrom lo m = true →
    Memory.get m a = Memory.unlisted a
  | [], _ => rfl
  | (b, x) :: m, hw => by
    simp only [Memory.wfFrom, Bool.and_eq_true, decide_eq_true_eq] at hw
    have hne : a ≠ b := by omega
    simp only [Memory.get, hne, if_false]
    exact Memory.get_below (by omega) hw.2

theorem Memory.get_consCell (a b : Nat) (x : Byte) (m : Memory) (h : Memory.get m a = Memory.unlisted a) :
    Memory.get (Memory.consCell a x m) b = if b = a then x else Memory.get m b := by
  unfold Memory.consCell
  by_cases hx : x = Memory.unlisted a
  · rw [if_pos hx]
    by_cases hb : b = a
    · subst hb; rw [if_pos rfl, h, hx]
    · rw [if_neg hb]
  · rw [if_neg hx]; rfl

theorem Memory.wfFrom_consCell {lo a : Nat} {x : Byte} {m : Memory} (h1 : lo ≤ a) (h2 : a < Config.memSize)
    (h3 : Memory.wfFrom (a + 1) m = true) : Memory.wfFrom lo (Memory.consCell a x m) = true := by
  unfold Memory.consCell
  split
  · exact Memory.wfFrom_mono (by omega) h3
  · simp [Memory.wfFrom, *]

/-- Reading after a write (R48): the byte written, and every other byte as before. -/
theorem Memory.get_set {lo a b : Nat} {x : Byte} : ∀ {m : Memory}, Memory.wfFrom lo m = true →
    Memory.get (Memory.set m a x) b = if b = a then x else Memory.get m b
  | [], _ => Memory.get_consCell a b x [] rfl
  | (c, y) :: m, hw => by
    have hw' := hw
    simp only [Memory.wfFrom, Bool.and_eq_true, decide_eq_true_eq] at hw
    unfold Memory.set
    by_cases h1 : a < c
    · rw [if_pos h1]
      refine Memory.get_consCell a b x _ ?_
      refine Memory.get_below (lo := c) h1 ?_
      simp only [Memory.wfFrom, Bool.and_eq_true, decide_eq_true_eq]
      exact ⟨⟨⟨by omega, hw.1.1.2⟩, hw.1.2⟩, hw.2⟩
    · rw [if_neg h1]
      by_cases h2 : a = c
      · subst h2
        rw [if_pos rfl, Memory.get_consCell a b x m (Memory.get_below (by omega) hw.2)]
        by_cases hb : b = a
        · simp [hb]
        · simp [Memory.get, hb]
      · rw [if_neg h2]
        simp only [Memory.get, Memory.get_set hw.2]
        by_cases hb : b = c
        · subst hb; simp [Ne.symm h2]
        · simp [hb]

/-- A write inside MEM keeps the canonical form (R41). -/
theorem Memory.wfFrom_set {a : Nat} {x : Byte} (ha : a < Config.memSize) : ∀ {m : Memory} {lo : Nat}, lo ≤ a →
    Memory.wfFrom lo m = true → Memory.wfFrom lo (Memory.set m a x) = true
  | [], _, h1, _ => Memory.wfFrom_consCell h1 ha rfl
  | (c, y) :: m, lo, h1, hw => by
    have hw' := hw
    simp only [Memory.wfFrom, Bool.and_eq_true, decide_eq_true_eq] at hw
    unfold Memory.set
    by_cases h2 : a < c
    · rw [if_pos h2]
      refine Memory.wfFrom_consCell h1 ha ?_
      simp only [Memory.wfFrom, Bool.and_eq_true, decide_eq_true_eq]
      exact ⟨⟨⟨by omega, hw.1.1.2⟩, hw.1.2⟩, hw.2⟩
    · rw [if_neg h2]
      by_cases h3 : a = c
      · subst h3; rw [if_pos rfl]; exact Memory.wfFrom_consCell h1 ha hw.2
      · rw [if_neg h3]
        simp only [Memory.wfFrom, Bool.and_eq_true, decide_eq_true_eq]
        exact ⟨hw.1, Memory.wfFrom_set ha (by omega) hw.2⟩

theorem Memory.wf_set {a : Nat} {x : Byte} {m : Memory} (ha : a < Config.memSize) (h : Memory.wf m = true) :
    Memory.wf (Memory.set m a x) = true :=
  Memory.wfFrom_set ha (Nat.zero_le a) h

theorem Memory.wf_setBytes : ∀ {xs : List Byte} {m : Memory} {base : Nat}, base + xs.length ≤ Config.memSize →
    Memory.wf m = true → Memory.wf (Memory.setBytes m base xs) = true
  | [], _, _, _, h => h
  | x :: xs, m, base, hb, h => by
    simp only [List.length_cons] at hb
    exact Memory.wf_setBytes (m := Memory.set m base x) (by omega) (Memory.wf_set (by omega) h)

/-- Reading after writing a run of bytes: the run's own addresses give the bytes, every other address is as
before. -/
theorem Memory.get_setBytes : ∀ {xs : List Byte} {m : Memory} {base : Nat} (a : Nat),
    base + xs.length ≤ Config.memSize → Memory.wf m = true →
    Memory.get (Memory.setBytes m base xs) a =
      if base ≤ a ∧ a < base + xs.length then xs.getD (a - base) 0 else Memory.get m a
  | [], m, base, a, _, _ => by
    simp only [Memory.setBytes, List.length_nil]
    rw [if_neg (by omega)]
  | x :: xs, m, base, a, hb, h => by
    simp only [List.length_cons] at hb
    simp only [Memory.setBytes, List.length_cons]
    rw [Memory.get_setBytes a (by omega) (Memory.wf_set (by omega) h), Memory.get_set h]
    by_cases h1 : a = base
    · subst h1; rw [if_neg (by omega), if_pos rfl, if_pos (by omega)]; simp
    · by_cases h2 : base + 1 ≤ a ∧ a < base + 1 + xs.length
      · rw [if_pos h2, if_pos (by omega)]
        obtain ⟨n, hn⟩ : ∃ n, a - base = n + 1 := ⟨a - base - 1, by omega⟩
        rw [hn, List.getD_cons_succ]
        congr 1; omega
      · rw [if_neg h2, if_neg h1, if_neg (by omega)]

@[simp] theorem Memory.getBytes_length (m : Memory) : ∀ (len base : Nat), (Memory.getBytes m base len).length = len
  | 0, _ => rfl
  | len + 1, base => by simp [Memory.getBytes, Memory.getBytes_length m len]

theorem Memory.getBytes_getElem? (m : Memory) : ∀ (len base k : Nat), k < len →
    (Memory.getBytes m base len)[k]? = some (Memory.get m (base + k))
  | 0, _, _, h => absurd h (by omega)
  | len + 1, base, 0, _ => by simp [Memory.getBytes]
  | len + 1, base, k + 1, h => by
    simp only [Memory.getBytes, List.getElem?_cons_succ]
    rw [Memory.getBytes_getElem? m len (base + 1) k (by omega)]
    congr 2; omega

/-! ### The range check and the block operations (R40, R41) -/

theorem outOfRange_none {base len : Nat} (h : len = 0 ∨ base + len ≤ 0x1000) : outOfRange base len = none := by
  unfold outOfRange; rw [if_neg (by omega)]

theorem outOfRange_some {base len : Nat} (h1 : 0 < len) (h2 : 0x1000 < base + len) :
    outOfRange base len = some (max base 0x1000) := by
  unfold outOfRange; rw [if_pos (by omega)]

theorem readBlock_ok {m : Memory} {base len : Nat} (h : len = 0 ∨ base + len ≤ 0x1000) :
    readBlock m base len = .ok (Memory.getBytes m base len) := by
  simp [readBlock, outOfRange_none h]

theorem readBlock_error {m : Memory} {base len : Nat} (h1 : 0 < len) (h2 : 0x1000 < base + len) :
    readBlock m base len = .error (max base 0x1000) := by
  simp [readBlock, outOfRange_some h1 h2]

theorem writeBlock_ok {m : Memory} {base : Nat} {xs : List Byte} (h : xs.length = 0 ∨ base + xs.length ≤ 0x1000) :
    writeBlock m base xs = .ok (Memory.setBytes m base xs) := by
  simp [writeBlock, outOfRange_none h]

theorem writeBlock_error {m : Memory} {base : Nat} {xs : List Byte} (h1 : 0 < xs.length)
    (h2 : 0x1000 < base + xs.length) : writeBlock m base xs = .error (max base 0x1000) := by
  simp [writeBlock, outOfRange_some h1 h2]

/-- Every memory write an instruction makes keeps the canonical form. -/
theorem writeBlock_wf {m m' : Memory} {base : Nat} {xs : List Byte} (h : writeBlock m base xs = .ok m')
    (hw : Memory.wf m = true) : Memory.wf m' = true := by
  by_cases hr : xs.length = 0 ∨ base + xs.length ≤ 0x1000
  · rw [writeBlock_ok hr] at h
    cases h
    cases hr with
    | inl h0 => rw [List.length_eq_zero_iff] at h0; subst h0; exact hw
    | inr h1 => exact Memory.wf_setBytes h1 hw
  · rw [writeBlock_error (by omega) (by omega)] at h; cases h

end Sys2Proof.Machine
end

