-- ==== Sys2Proof/Laws/Operations.lean ====
section
/-!
SUPPORT. One lemma per shared operation of the instructions: what it answers, under which condition
(spec/10_state.md R33, spec/20_memory.md R40, spec/41_alu.md R71, spec/44_input_timers.md R98).
-/

namespace Sys2Proof.Machine

@[simp] theorem continueWith_eq (s : State) : continueWith s = .next s.advance := rfl

@[simp] theorem raise_eq (c : FaultCode) (n : Nat) (s : State) : raise c n s = .next (s.takeFault c n) := rfl

theorem setPc_same (s : State) : s.setPc s.pc = s := rfl

/-- A conditional skip moves PC by 4 or by 2 and changes nothing else (R33). -/
theorem skipIf_eq (c : Bool) (s : State) : skipIf c s = .next (s.setPc (s.pc + if c then 4#16 else 2#16)) := by
  cases c
  · rfl
  · simp [skipIf, State.skip, State.advance, State.setPc, BitVec.add_assoc]

/-! ### The range-checked accesses -/

theorem withBytesAtI_ok {len : Nat} {s : State} (k : List Byte → Result)
    (h : len = 0 ∨ indexBase s + len ≤ 0x1000) :
    withBytesAtI len s k = k (Memory.getBytes s.mem (indexBase s) len) := by
  simp [withBytesAtI, readBlock_ok h]

theorem withBytesAtI_error {len : Nat} {s : State} (k : List Byte → Result) (h1 : 0 < len)
    (h2 : 0x1000 < indexBase s + len) :
    withBytesAtI len s k = .next (s.takeFault .dataRange (max (indexBase s) 0x1000)) := by
  simp [withBytesAtI, readBlock_error h1 h2]

theorem storingAtI_ok {xs : List Byte} {s : State} (k : State → Result)
    (h : xs.length = 0 ∨ indexBase s + xs.length ≤ 0x1000) :
    storingAtI xs s k = k (s.setMem (Memory.setBytes s.mem (indexBase s) xs)) := by
  simp [storingAtI, writeBlock_ok h]

theorem storingAtI_error {xs : List Byte} {s : State} (k : State → Result) (h1 : 0 < xs.length)
    (h2 : 0x1000 < indexBase s + xs.length) :
    storingAtI xs s k = .next (s.takeFault .dataRange (max (indexBase s) 0x1000)) := by
  simp [storingAtI, writeBlock_error h1 h2]

/-- Everything a reading access can do. -/
theorem withBytesAtI_cases (len : Nat) (s : State) (k : List Byte → Result) :
    (withBytesAtI len s k = k (Memory.getBytes s.mem (indexBase s) len) ∧
      (len = 0 ∨ indexBase s + len ≤ 0x1000)) ∨
    (withBytesAtI len s k = .next (s.takeFault .dataRange (max (indexBase s) 0x1000)) ∧
      0 < len ∧ 0x1000 < indexBase s + len) := by
  by_cases h : len = 0 ∨ indexBase s + len ≤ 0x1000
  · exact .inl ⟨withBytesAtI_ok k h, h⟩
  · exact .inr ⟨withBytesAtI_error k (by omega) (by omega), by omega, by omega⟩

/-- Everything a storing access can do. -/
theorem storingAtI_cases (xs : List Byte) (s : State) (k : State → Result) :
    (storingAtI xs s k = k (s.setMem (Memory.setBytes s.mem (indexBase s) xs)) ∧
      (xs.length = 0 ∨ indexBase s + xs.length ≤ 0x1000)) ∨
    (storingAtI xs s k = .next (s.takeFault .dataRange (max (indexBase s) 0x1000)) ∧
      0 < xs.length ∧ 0x1000 < indexBase s + xs.length) := by
  by_cases h : xs.length = 0 ∨ indexBase s + xs.length ≤ 0x1000
  · exact .inl ⟨storingAtI_ok k h, h⟩
  · exact .inr ⟨storingAtI_error k (by omega) (by omega), by omega, by omega⟩

theorem bcdDigits_length (b : Byte) : (bcdDigits b).length = 3 := rfl

theorem regCount_le (x : Nibble) : regCount x ≤ 16 := by have := x.isLt; simp only [regCount]; omega

theorem firstRegs_regCount_length (s : State) (x : Nibble) : (s.firstRegs (regCount x)).length = x.toNat + 1 := by
  have := regCount_le x
  rw [State.firstRegs_length, Nat.min_eq_left this]; rfl

theorem withSelectedKey_ok {x : Nibble} {s : State} (k : Bool → Result) (h : (s.getV x).toNat ≤ 15) :
    withSelectedKey x s k = k (s.latch.getLsbD (s.getV x).toNat) := by
  unfold withSelectedKey; rw [if_neg (by omega)]

theorem withSelectedKey_error {x : Nibble} {s : State} (k : Bool → Result) (h : 15 < (s.getV x).toNat) :
    withSelectedKey x s k = .next (s.takeFault .keyRange (s.getV x).toNat) := by
  unfold withSelectedKey; rw [if_pos (by omega)]; rfl

/-! ### Flag producers (R71, R72) -/

/-- A flag producer changes the register file only. -/
theorem writeFlagged_eq (f r : Byte → Byte → Byte) (x y : Nibble) (s : State) :
    writeFlagged f r x y s = { s with v := (writeFlagged f r x y s).v } := by
  unfold writeFlagged; cases s.params.vfOrder <;> rfl

/-- A bitwise operation changes the register file only. -/
theorem writeLogic_eq (r : Byte → Byte → Byte) (x y : Nibble) (s : State) :
    writeLogic r x y s = { s with v := (writeLogic r x y s).v } := by
  unfold writeLogic; split
  · exact writeFlagged_eq _ r x y s
  · rfl

/-- Registers other than VX and VF are unchanged by a flag producer. -/
theorem writeFlagged_getV_other (f r : Byte → Byte → Byte) (x y q : Nibble) (s : State) (h1 : q ≠ x) (h2 : q ≠ vf) :
    (writeFlagged f r x y s).getV q = s.getV q := by
  unfold writeFlagged; cases s.params.vfOrder <;> simp [h1, h2]

/-- With neither operand VF, every VF_ORDER gives VF = f a b and VX = r a b (R72). -/
theorem writeFlagged_plain (f r : Byte → Byte → Byte) (x y : Nibble) (s : State) (hx : x ≠ vf) (hy : y ≠ vf) :
    (writeFlagged f r x y s).getV x = r (s.getV x) (s.getV y) ∧
    (writeFlagged f r x y s).getV vf = f (s.getV x) (s.getV y) := by
  unfold writeFlagged
  cases s.params.vfOrder <;> simp [hx, hy, Ne.symm hx]

/-! ### The key mux (R98) -/

theorem mem_pressedKeys (l : BitVec 16) (k : Nat) : k ∈ pressedKeys l ↔ k < 16 ∧ l.getLsbD k = true := by
  simp [pressedKeys]

theorem pressedKeys_eq_nil (l : BitVec 16) : pressedKeys l = [] ↔ l = 0#16 := by
  constructor
  · intro h
    apply BitVec.eq_of_getLsbD_eq
    intro k hk
    have : k ∉ pressedKeys l := by simp [h]
    rw [mem_pressedKeys] at this
    simp_all
  · rintro rfl; decide

/-- A draw chooses an element of a list that has one. -/
theorem chooseBy_mem (d : Nat) (ks : List Nat) (h : ks ≠ []) : ∃ k, chooseBy d ks = some k ∧ k ∈ ks := by
  match ks with
  | [] => exact absurd rfl h
  | [k] => exact ⟨k, rfl, by simp⟩
  | a :: b :: ks =>
    have hl : d % (a :: b :: ks).length < (a :: b :: ks).length := Nat.mod_lt _ (by simp)
    exact ⟨_, List.getElem?_eq_getElem hl, List.getElem_mem hl⟩

theorem keyPick?_none (s : State) (h : s.latch = 0#16) : s.keyPick? = none := by
  have hp := (pressedKeys_eq_nil s.latch).2 h
  unfold State.keyPick?; cases s.params.keyPick <;> simp [hp, chooseBy]

theorem head_pressedKeys_lowest {l : BitVec 16} {k : Nat} (h : (pressedKeys l).head? = some k) :
    ∀ j < k, l.getLsbD j = false := by
  intro j hj
  have hk : k < 16 := ((mem_pressedKeys l k).1 (List.mem_of_mem_head? h)).1
  unfold pressedKeys at h
  rw [List.head?_filter, List.find?_eq_some_iff_append] at h
  obtain ⟨_, as, bs, hab, hnot⟩ := h
  have hj' : j ∈ as := by
    have hlen : as.length = k := by
      have h1 : (List.range 16)[as.length]? = some k := by rw [hab]; simp
      rw [List.getElem?_range (by
        have := congrArg List.length hab; simp at this; omega)] at h1
      exact Option.some.inj h1
    have h2 : (List.range 16)[j]? = some j := by rw [List.getElem?_range (by omega)]
    rw [hab, List.getElem?_append_left (by omega)] at h2
    exact List.mem_of_getElem? h2
  simpa using hnot j hj'

/-- With a key down the mux gives the index of a pressed key, the lowest one under KEY_PICK = lowest. -/
theorem keyPick?_some (s : State) (h : s.latch ≠ 0#16) :
    ∃ k, s.keyPick? = some k ∧ k < 16 ∧ s.latch.getLsbD k = true ∧
      (s.params.keyPick = .lowest → ∀ j < k, s.latch.getLsbD j = false) := by
  have hp : pressedKeys s.latch ≠ [] := fun e => h ((pressedKeys_eq_nil _).1 e)
  unfold State.keyPick?
  cases hk : s.params.keyPick with
  | lowest =>
    obtain ⟨k, hk⟩ : ∃ k, (pressedKeys s.latch).head? = some k := by
      cases hl : pressedKeys s.latch with
      | nil => exact absurd hl hp
      | cons a l => exact ⟨a, rfl⟩
    have hm := (mem_pressedKeys s.latch k).1 (List.mem_of_mem_head? hk)
    exact ⟨k, hk, hm.1, hm.2, fun _ => head_pressedKeys_lowest hk⟩
  | anyPressed =>
    obtain ⟨k, h1, h2⟩ := chooseBy_mem (Config.keyDraw s.frame) _ hp
    have hm := (mem_pressedKeys s.latch k).1 h2
    exact ⟨k, h1, hm.1, hm.2, fun e => by cases e⟩

/-! ### The call stack -/

theorem top?_eq (s : State) (h : s.sp.toNat ≤ 15) : s.top? = some (s.stack[s.sp.toNat]) := by
  have : s.sp.toNat < 16 := by omega
  simp [State.top?, this]

@[simp] theorem slotValue_toNat (n : Nat) (w : Word) : (slotValue n w).toNat = w.toNat % 2 ^ n := by
  rw [slotValue, BitVec.toNat_ofNat]
  exact Nat.mod_eq_of_lt (Nat.lt_of_le_of_lt (Nat.mod_le _ _) w.isLt)

/-- A slot wide enough for the value holds it whole. -/
theorem slotValue_fits {n : Nat} {w : Word} (h : w.toNat < 2 ^ n) : slotValue n w = w :=
  BitVec.eq_of_toNat_eq (by rw [slotValue_toNat, Nat.mod_eq_of_lt h])

/-- A slot never holds more than was written to it, nor more than its width. -/
theorem slotValue_bounds (n : Nat) (w : Word) :
    (slotValue n w).toNat ≤ w.toNat ∧ (slotValue n w).toNat < 2 ^ n := by
  rw [slotValue_toNat]
  exact ⟨Nat.mod_le _ _, Nat.mod_lt _ (Nat.two_pow_pos n)⟩

theorem push_sp_toNat (s : State) (w : Word) (h : s.sp.toNat < 15) : (s.push w).sp.toNat = s.sp.toNat + 1 := by
  simp only [State.push_sp, BitVec.toNat_add, BitVec.toNat_ofNat]; omega

end Sys2Proof.Machine
end

