-- ==== Sys2Proof/Laws/Display.lean ====
section
/-!
SUPPORT. The framebuffer: what a pixel is after a write, after one sprite bit, and after a clear
(spec/43_display.md R94 to R96).
-/

namespace Sys2Proof.Machine

theorem Framebuffer.pixel_outside (fb : Framebuffer) (x y : Nat) (h : ¬(x < 64 ∧ y < 32)) :
    Framebuffer.pixel fb x y = false := by
  unfold Framebuffer.pixel
  by_cases hy : y < 32
  · have hx : ¬ x < 64 := fun hx => h ⟨hx, hy⟩
    simp [hy, hx]
  · simp [hy]

theorem Framebuffer.pixel_eq (fb : Framebuffer) {y : Nat} (hy : y < 32) (x : Nat) :
    Framebuffer.pixel fb x y = (fb[y][x]?).getD false := by
  simp [Framebuffer.pixel, hy]

theorem Framebuffer.pixel_setPixel (fb : Framebuffer) (x y px py : Nat) (b : Bool) :
    Framebuffer.pixel (Framebuffer.setPixel fb x y b) px py =
      if px = x ∧ py = y ∧ x < 64 ∧ y < 32 then b else Framebuffer.pixel fb px py := by
  by_cases hy : y < 32
  · have hset : Framebuffer.setPixel fb x y b = fb.setIfInBounds y (fb[y].setIfInBounds x b) := by
      simp [Framebuffer.setPixel, hy]
    rw [hset]
    by_cases hpy : py = y
    · subst hpy
      rw [Framebuffer.pixel_eq _ hy, Framebuffer.pixel_eq _ hy]
      have hrow : (fb.setIfInBounds py (fb[py].setIfInBounds x b))[py] = fb[py].setIfInBounds x b := by simp
      rw [hrow]
      by_cases hpx : px = x
      · subst hpx
        by_cases hx : px < 64 <;> simp [hx, hy]
      · rw [Vector.getElem?_setIfInBounds_ne (Ne.symm hpx)]; simp [hpx]
    · unfold Framebuffer.pixel
      rw [Vector.getElem?_setIfInBounds_ne (Ne.symm hpy)]; simp [hpy]
  · have hset : Framebuffer.setPixel fb x y b = fb := by simp [Framebuffer.setPixel, hy]
    rw [hset, if_neg (fun h => hy h.2.2.2)]

@[simp] theorem Framebuffer.pixel_blank (x y : Nat) : Framebuffer.pixel Framebuffer.blank x y = false := by
  unfold Framebuffer.pixel Framebuffer.blank
  by_cases hy : y < 32 <;> by_cases hx : x < 64 <;> simp [hx, hy]

/-- Two framebuffers with the same pixels inside the grid are the same. -/
theorem Framebuffer.ext_pixel {f g : Framebuffer}
    (h : ∀ x y, x < 64 → y < 32 → Framebuffer.pixel f x y = Framebuffer.pixel g x y) : f = g := by
  apply Vector.ext
  intro y hy
  apply Vector.ext
  intro x hx
  have := h x y hx hy
  simpa [Framebuffer.pixel, hx, hy] using this

/-- One sprite bit flips the pixel it falls on inside the grid and no other (R94, R95). -/
theorem plot_pixel (x y px py : Nat) (bit : Bool) (d : Drawing) (hx : px < 64) (hy : py < 32) :
    Framebuffer.pixel (plot x y bit d).fb px py =
      (Framebuffer.pixel d.fb px py ^^ (bit && decide (px = x) && decide (py = y))) := by
  unfold plot
  by_cases hb : (bit && decide (x < 64) && decide (y < 32)) = true
  · simp only [Bool.and_eq_true, decide_eq_true_eq] at hb
    obtain ⟨⟨rfl, h1⟩, h2⟩ := hb
    simp only [h1, h2, decide_true, Bool.and_self, if_true, Framebuffer.pixel_setPixel, and_true, Bool.true_and]
    by_cases e1 : px = x <;> by_cases e2 : py = y <;> simp_all
  · rw [if_neg hb]
    by_cases e1 : px = x <;> by_cases e2 : py = y <;> simp_all

/-- One sprite bit collides if it falls on a pixel that is on (R95). -/
theorem plot_collided (x y : Nat) (bit : Bool) (d : Drawing) :
    (plot x y bit d).collided = (d.collided || (bit && Framebuffer.pixel d.fb x y)) := by
  unfold plot
  by_cases hb : (bit && decide (x < 64) && decide (y < 32)) = true
  · simp only [hb, if_true]
    simp only [Bool.and_eq_true, decide_eq_true_eq] at hb
    simp [hb.1.1]
  · rw [if_neg hb]
    cases bit with
    | false => simp
    | true =>
      rw [Framebuffer.pixel_outside d.fb x y (by simpa using hb)]; simp

end Sys2Proof.Machine
end

