-- ==== Sys2Proof/Laws/Exec.lean ====
section
/-!
SUPPORT. What each instruction answers, as one equation per case: the forms that read or write memory, the key
instructions, the stack, and the words UNKNOWN_POLICY decides. The other instructions answer by rfl.
-/

namespace Sys2Proof.Machine

theorem exec_ldB_ok (s : State) (x : Nibble) (h : indexBase s + 2 ≤ 0xFFF) :
    exec (.ldB x) s =
      .next (s.setMem (Memory.setBytes s.mem (indexBase s) (bcdDigits (s.getV x)))).advance :=
  storingAtI_ok continueWith (by rw [bcdDigits_length]; omega)

theorem exec_ldB_fault (s : State) (x : Nibble) (h : indexBase s + 2 > 0xFFF) :
    exec (.ldB x) s = .next (s.takeFault .dataRange (max (indexBase s) 0x1000)) :=
  storingAtI_error continueWith (by rw [bcdDigits_length]; omega) (by rw [bcdDigits_length]; omega)

theorem exec_ldMemVx_ok (s : State) (x : Nibble) (h : indexBase s + x.toNat ≤ 0xFFF) :
    exec (.ldMemVx x) s =
      .next ((s.setMem (Memory.setBytes s.mem (indexBase s) (s.firstRegs (regCount x)))).setI
        (indexAfter x s)).advance :=
  storingAtI_ok (s := s) (xs := s.firstRegs (regCount x)) (fun s' => continueWith (s'.setI (indexAfter x s)))
    (by rw [firstRegs_regCount_length]; omega)

theorem exec_ldMemVx_fault (s : State) (x : Nibble) (h : indexBase s + x.toNat > 0xFFF) :
    exec (.ldMemVx x) s = .next (s.takeFault .dataRange (max (indexBase s) 0x1000)) :=
  storingAtI_error (s := s) (xs := s.firstRegs (regCount x)) (fun s' => continueWith (s'.setI (indexAfter x s)))
    (by rw [firstRegs_regCount_length]; omega) (by rw [firstRegs_regCount_length]; omega)

theorem exec_ldVxMem_ok (s : State) (x : Nibble) (h : indexBase s + x.toNat ≤ 0xFFF) :
    exec (.ldVxMem x) s =
      .next ((s.setRegsFrom 0 (Memory.getBytes s.mem (indexBase s) (regCount x))).setI (indexAfter x s)).advance :=
  withBytesAtI_ok (s := s) (len := regCount x)
    (fun bytes => continueWith ((s.setRegsFrom 0 bytes).setI (indexAfter x s))) (by unfold regCount; omega)

theorem exec_ldVxMem_fault (s : State) (x : Nibble) (h : indexBase s + x.toNat > 0xFFF) :
    exec (.ldVxMem x) s = .next (s.takeFault .dataRange (max (indexBase s) 0x1000)) :=
  withBytesAtI_error (s := s) (len := regCount x)
    (fun bytes => continueWith ((s.setRegsFrom 0 bytes).setI (indexAfter x s))) (by unfold regCount; omega)
    (by unfold regCount; omega)

/-- The drawing DXYN makes of its rows. -/
def drawn (x y n : Nibble) (s : State) : Drawing :=
  plotRows (spriteOrigin x y s).1 (spriteOrigin x y s).2 (Memory.getBytes s.mem (indexBase s) n.toNat)
    { fb := s.fb, collided := false }

theorem exec_drw_ok (s : State) (x y n : Nibble) (h : n.toNat = 0 ∨ indexBase s + n.toNat ≤ 0x1000) :
    exec (.drw x y n) s =
      .next ((s.setFb (drawn x y n s).fb).setV vf (flagByte (drawn x y n s).collided)).advance :=
  withBytesAtI_ok (s := s) (len := n.toNat)
    (fun rows =>
      let o := spriteOrigin x y s
      let d := plotRows o.1 o.2 rows { fb := s.fb, collided := false }
      continueWith ((s.setFb d.fb).setV vf (flagByte d.collided))) h

theorem exec_drw_fault (s : State) (x y n : Nibble) (h1 : 0 < n.toNat) (h2 : indexBase s + n.toNat > 0x1000) :
    exec (.drw x y n) s = .next (s.takeFault .dataRange (max (indexBase s) 0x1000)) :=
  withBytesAtI_error (s := s) (len := n.toNat)
    (fun rows =>
      let o := spriteOrigin x y s
      let d := plotRows o.1 o.2 rows { fb := s.fb, collided := false }
      continueWith ((s.setFb d.fb).setV vf (flagByte d.collided))) h1 h2

theorem exec_skp_ok (s : State) (x : Nibble) (h : (s.getV x).toNat ≤ 15) :
    exec (.skp x) s =
      .next (s.setPc (s.pc + if s.latch.getLsbD (s.getV x).toNat then 4#16 else 2#16)) :=
  (withSelectedKey_ok (fun down => skipIf down s) h).trans (skipIf_eq _ s)

theorem exec_sknp_ok (s : State) (x : Nibble) (h : (s.getV x).toNat ≤ 15) :
    exec (.sknp x) s =
      .next (s.setPc (s.pc + if !(s.latch.getLsbD (s.getV x).toNat) then 4#16 else 2#16)) :=
  (withSelectedKey_ok (fun down => skipIf (!down) s) h).trans (skipIf_eq _ s)

theorem exec_skp_fault (s : State) (x : Nibble) (h : 15 < (s.getV x).toNat) :
    exec (.skp x) s = .next (s.takeFault .keyRange (s.getV x).toNat) :=
  withSelectedKey_error (fun down => skipIf down s) h

theorem exec_sknp_fault (s : State) (x : Nibble) (h : 15 < (s.getV x).toNat) :
    exec (.sknp x) s = .next (s.takeFault .keyRange (s.getV x).toNat) :=
  withSelectedKey_error (fun down => skipIf (!down) s) h

theorem exec_ldVxK_key (s : State) (x : Nibble) (k : Nat) (h : s.keyPick? = some k) :
    exec (.ldVxK x) s = .next (s.setV x (BitVec.ofNat 8 k)).advance := by
  simp [exec, execLdVxK, h]

theorem exec_ldVxK_wait (s : State) (x : Nibble) (h : s.keyPick? = none) :
    exec (.ldVxK x) s = .next (s.setMode (.awaitingKey x)) := by
  simp [exec, execLdVxK, h]

theorem exec_ret_ok (s : State) (h1 : s.sp.toNat ≠ 0) (h2 : s.sp.toNat ≤ 15) :
    exec .ret s = .next (s.dropTop.setPc (s.stack[s.sp.toNat])) := by
  have hne : s.sp ≠ 0#8 := fun e => h1 (by rw [e]; rfl)
  simp [exec, execRet, hne, top?_eq s h2]

theorem exec_ret_fault (s : State) (h : s.sp.toNat = 0) :
    exec .ret s = .next (s.takeFault .stackUnderflow s.pc.toNat) := by
  have h0 : s.sp = 0x00#8 := BitVec.eq_of_toNat_eq h
  show execRet s = _
  unfold execRet
  rw [if_pos h0]; rfl

theorem exec_ret_absent (s : State) (h : 15 < s.sp.toNat) : exec .ret s = .fault .stackSlotAbsent := by
  have hne : s.sp ≠ 0#8 := fun e => by rw [e] at h; simp at h
  have ht : s.top? = none := by simp [State.top?]; omega
  simp [exec, execRet, hne, ht]

theorem exec_call_ok (s : State) (nnn : Addr) (h : s.sp.toNat < 15) :
    exec (.call nnn) s = .next ((s.push (s.pc + 2#16)).setPc (absolute nnn)) := by
  show execCall nnn s = _
  unfold execCall
  rw [if_neg (by omega)]

theorem exec_call_fault (s : State) (nnn : Addr) (h : 15 ≤ s.sp.toNat) :
    exec (.call nnn) s = .next (s.takeFault .stackOverflow s.pc.toNat) := by
  show execCall nnn s = _
  unfold execCall
  rw [if_pos h]; rfl

theorem exec_sneQ_noop (s : State) (x y n : Nibble) (h : s.params.unknownPolicy = .noop) :
    exec (.sneQ x y n) s =
      .next (s.markUnknown.setPc (s.pc + if s.getV x != s.getV y then 4#16 else 2#16)) := by
  simp [exec, execSneQ, h, skipIf_eq]

theorem exec_sneQ_refuse (s : State) (x y n : Nibble) (h : s.params.unknownPolicy = .refuse) :
    exec (.sneQ x y n) s = .refused (.unknownOpcode (0x9#4 ++ x ++ y ++ n)) := by
  simp [exec, execSneQ, h]

theorem exec_unknown_noop (s : State) (w : Word) (h : s.params.unknownPolicy = .noop) :
    exec (.unknown w) s = .next s.markUnknown.advance := by
  simp [exec, execUnknown, h]

theorem exec_unknown_refuse (s : State) (w : Word) (h : s.params.unknownPolicy = .refuse) :
    exec (.unknown w) s = .refused (.unknownOpcode w) := by
  simp [exec, execUnknown, h]

/-! ### Everything an instruction can do -/

/-- The condition under which an instruction completes with its own effect. -/
def Lawful (i : Instr) (s : State) : Prop :=
  match i with
  | .ret => s.sp.toNat ≠ 0 ∧ s.sp.toNat ≤ 15
  | .call _ => s.sp.toNat < 15
  | .sneQ _ _ _ => s.params.unknownPolicy = .noop
  | .unknown _ => s.params.unknownPolicy = .noop
  | .drw _ _ n => n.toNat = 0 ∨ indexBase s + n.toNat ≤ 0x1000
  | .skp x => (s.getV x).toNat ≤ 15
  | .sknp x => (s.getV x).toNat ≤ 15
  | .ldVxK _ => ∃ k, s.keyPick? = some k
  | .ldB _ => indexBase s + 2 ≤ 0xFFF
  | .ldMemVx x => indexBase s + x.toNat ≤ 0xFFF
  | .ldVxMem x => indexBase s + x.toNat ≤ 0xFFF
  | _ => True

/-- The state an instruction leaves when it completes with its own effect. -/
def completed (i : Instr) (s : State) : State :=
  match i with
  | .cls => (s.setFb Framebuffer.blank).advance
  | .ret => s.dropTop.setPc (s.top?.getD 0#16)
  | .jp nnn => s.setPc (absolute nnn)
  | .call nnn => (s.push (s.pc + 2#16)).setPc (absolute nnn)
  | .seImm x nn => s.setPc (s.pc + if s.getV x == nn then 4#16 else 2#16)
  | .sneImm x nn => s.setPc (s.pc + if s.getV x != nn then 4#16 else 2#16)
  | .seReg x y => s.setPc (s.pc + if s.getV x == s.getV y then 4#16 else 2#16)
  | .ldImm x nn => (s.setV x nn).advance
  | .addImm x nn => (s.setV x (s.getV x + nn)).advance
  | .ldReg x y => (s.setV x (s.getV y)).advance
  | .orReg x y => (writeLogic (· ||| ·) x y s).advance
  | .andReg x y => (writeLogic (· &&& ·) x y s).advance
  | .xorReg x y => (writeLogic (· ^^^ ·) x y s).advance
  | .addReg x y => (writeFlagged carryFlag (· + ·) x y s).advance
  | .sub x y => (writeFlagged noBorrowFlag (· - ·) x y s).advance
  | .shr x y => (writeFlagged (fun _ b => shiftOutLow b) (fun _ b => b >>> 1) x y s).advance
  | .subn x y => (writeFlagged (fun a b => noBorrowFlag b a) (fun a b => b - a) x y s).advance
  | .shl x y => (writeFlagged (fun _ b => shiftOutHigh b) (fun _ b => b <<< 1) x y s).advance
  | .sneReg x y => s.setPc (s.pc + if s.getV x != s.getV y then 4#16 else 2#16)
  | .sneQ x y _ => s.markUnknown.setPc (s.pc + if s.getV x != s.getV y then 4#16 else 2#16)
  | .ldI nnn => (s.setI (absolute nnn)).advance
  | .jpV0 nnn => s.setPc (absolutePlusV0 nnn s)
  | .rnd x nn => (s.setV x (s.rand8 &&& nn)).advance
  | .drw x y n => ((s.setFb (drawn x y n s).fb).setV vf (flagByte (drawn x y n s).collided)).advance
  | .skp x => s.setPc (s.pc + if s.latch.getLsbD (s.getV x).toNat then 4#16 else 2#16)
  | .sknp x => s.setPc (s.pc + if !(s.latch.getLsbD (s.getV x).toNat) then 4#16 else 2#16)
  | .ldVxDt x => (s.setV x s.dt).advance
  | .ldVxK x => (s.setV x (BitVec.ofNat 8 (s.keyPick?.getD 0))).advance
  | .ldDtVx x => (s.setDt (s.getV x)).advance
  | .ldStVx x => (s.setSt (s.getV x)).advance
  | .addI x => (s.setI (s.i + zext16 (s.getV x))).advance
  | .ldF x => (s.setI (glyphAddress (s.getV x))).advance
  | .ldB x => (s.setMem (Memory.setBytes s.mem (indexBase s) (bcdDigits (s.getV x)))).advance
  | .ldMemVx x =>
    ((s.setMem (Memory.setBytes s.mem (indexBase s) (s.firstRegs (regCount x)))).setI (indexAfter x s)).advance
  | .ldVxMem x =>
    ((s.setRegsFrom 0 (Memory.getBytes s.mem (indexBase s) (regCount x))).setI (indexAfter x s)).advance
  | .unknown _ => s.markUnknown.advance

/-- If an instruction answers a next state, it completed with its own effect, or it faulted, or it is FX0A and the
core now waits for a key. -/
theorem exec_next {i : Instr} {s t : State} (h : exec i s = .next t) :
    (Lawful i s ∧ t = completed i s) ∨ (∃ c n, t = s.takeFault c n) ∨
    (∃ x, i = .ldVxK x ∧ t = s.setMode (.awaitingKey x)) := by
  cases i
  case ret =>
    by_cases h0 : s.sp.toNat = 0
    · rw [exec_ret_fault s h0] at h; cases h; exact .inr (.inl ⟨_, _, rfl⟩)
    · by_cases h1 : s.sp.toNat ≤ 15
      · rw [exec_ret_ok s h0 h1] at h; cases h
        exact .inl ⟨⟨h0, h1⟩, by simp [completed, top?_eq s h1]⟩
      · rw [exec_ret_absent s (by omega)] at h; cases h
  case call nnn =>
    by_cases h1 : s.sp.toNat < 15
    · rw [exec_call_ok s nnn h1] at h; cases h; exact .inl ⟨h1, rfl⟩
    · rw [exec_call_fault s nnn (by omega)] at h; cases h; exact .inr (.inl ⟨_, _, rfl⟩)
  case sneQ x y n =>
    cases hp : s.params.unknownPolicy with
    | noop => rw [exec_sneQ_noop s x y n hp] at h; cases h; exact .inl ⟨hp, rfl⟩
    | refuse => rw [exec_sneQ_refuse s x y n hp] at h; cases h
  case unknown w =>
    cases hp : s.params.unknownPolicy with
    | noop => rw [exec_unknown_noop s w hp] at h; cases h; exact .inl ⟨hp, rfl⟩
    | refuse => rw [exec_unknown_refuse s w hp] at h; cases h
  case drw x y n =>
    by_cases h1 : n.toNat = 0 ∨ indexBase s + n.toNat ≤ 0x1000
    · rw [exec_drw_ok s x y n h1] at h; cases h; exact .inl ⟨h1, rfl⟩
    · rw [exec_drw_fault s x y n (by omega) (by omega)] at h; cases h; exact .inr (.inl ⟨_, _, rfl⟩)
  case skp x =>
    by_cases h1 : (s.getV x).toNat ≤ 15
    · rw [exec_skp_ok s x h1] at h; cases h; exact .inl ⟨h1, rfl⟩
    · rw [exec_skp_fault s x (by omega)] at h; cases h; exact .inr (.inl ⟨_, _, rfl⟩)
  case sknp x =>
    by_cases h1 : (s.getV x).toNat ≤ 15
    · rw [exec_sknp_ok s x h1] at h; cases h; exact .inl ⟨h1, rfl⟩
    · rw [exec_sknp_fault s x (by omega)] at h; cases h; exact .inr (.inl ⟨_, _, rfl⟩)
  case ldVxK x =>
    cases hk : s.keyPick? with
    | none => rw [exec_ldVxK_wait s x hk] at h; cases h; exact .inr (.inr ⟨x, rfl, rfl⟩)
    | some k => rw [exec_ldVxK_key s x k hk] at h; cases h; exact .inl ⟨⟨k, hk⟩, by simp [completed, hk]⟩
  case ldB x =>
    by_cases h1 : indexBase s + 2 ≤ 0xFFF
    · rw [exec_ldB_ok s x h1] at h; cases h; exact .inl ⟨h1, rfl⟩
    · rw [exec_ldB_fault s x (by omega)] at h; cases h; exact .inr (.inl ⟨_, _, rfl⟩)
  case ldMemVx x =>
    by_cases h1 : indexBase s + x.toNat ≤ 0xFFF
    · rw [exec_ldMemVx_ok s x h1] at h; cases h; exact .inl ⟨h1, rfl⟩
    · rw [exec_ldMemVx_fault s x (by omega)] at h; cases h; exact .inr (.inl ⟨_, _, rfl⟩)
  case ldVxMem x =>
    by_cases h1 : indexBase s + x.toNat ≤ 0xFFF
    · rw [exec_ldVxMem_ok s x h1] at h; cases h; exact .inl ⟨h1, rfl⟩
    · rw [exec_ldVxMem_fault s x (by omega)] at h; cases h; exact .inr (.inl ⟨_, _, rfl⟩)
  case seImm x nn => left; exact ⟨trivial, (Host.Outcome.next.inj ((skipIf_eq _ s).symm.trans h)).symm⟩
  case sneImm x nn => left; exact ⟨trivial, (Host.Outcome.next.inj ((skipIf_eq _ s).symm.trans h)).symm⟩
  case seReg x y => left; exact ⟨trivial, (Host.Outcome.next.inj ((skipIf_eq _ s).symm.trans h)).symm⟩
  case sneReg x y => left; exact ⟨trivial, (Host.Outcome.next.inj ((skipIf_eq _ s).symm.trans h)).symm⟩
  all_goals exact .inl ⟨trivial, (Host.Outcome.next.inj h).symm⟩

end Sys2Proof.Machine
end

