-- ==== Sys2Proof/Laws/FlagTable.lean ====
section
/-!
SUPPORT. What the statements' own terms come to: the registers of a block transfer, and every flag table at once
from the one shared operation of R71.
-/

namespace Sys2Proof.Machine

/-- The registers of a block transfer are those up to X. -/
theorem mem_regsUpTo (x r : Nibble) : r ∈ regsUpTo x ↔ r.toNat ≤ x.toNat := by
  simp only [regsUpTo, List.mem_map, List.mem_range]
  constructor
  · rintro ⟨a, ha, rfl⟩
    have := x.isLt
    simp; omega
  · intro h
    exact ⟨r.toNat, by omega, by simp⟩

/-- A flag producer leaves everything but VX, VF and the program counter. -/
theorem writeFlagged_untouched (f r : Byte → Byte → Byte) (x y : Nibble) (s : State) :
    Untouched { regs := [x, vf] } s (writeFlagged f r x y s).advance := by
  simp only [Untouched]
  rw [writeFlagged_eq]
  refine ⟨?_, by simp⟩
  intro q hq
  rw [← writeFlagged_eq]
  simp at hq
  simpa using writeFlagged_getV_other f r x y q s hq.1 hq.2

/-- A flag producer advances the program counter by 2. -/
theorem writeFlagged_advance_pc (f r : Byte → Byte → Byte) (x y : Nibble) (s : State) :
    (writeFlagged f r x y s).advance.pc = s.pc + 2#16 := by
  simp; rw [writeFlagged_eq]

/-- The four cases of a flag table, from the flag function f and the result function r (R71). -/
theorem flagTable_of_writeFlagged (i : Instr) (f r : Byte → Byte → Byte) (s : State) (x y : Nibble)
    (hi : exec i s = continueWith (writeFlagged f r x y s)) (vx flag : Byte) (xIsF yIsF bothF : VfOrder → Byte)
    (hv : vx = r (s.getV x) (s.getV y)) (hf : flag = f (s.getV x) (s.getV y))
    (hx : xIsF = VfOrder.pick (r flag (s.getV y)) vx flag)
    (hy : yIsF = VfOrder.pick (r (s.getV x) flag) vx vx)
    (hb : x = y → bothF = VfOrder.pick (r flag flag) vx flag) :
    FlagTable i s x y vx flag xIsF yIsF bothF := by
  subst hv hf hx hy
  have hu := writeFlagged_untouched f r x y s
  have hp := writeFlagged_advance_pc f r x y s
  refine ⟨fun h k => ⟨_, hi, ?_, ?_, hp, hu⟩, fun h k => ⟨_, hi, ?_, ?_, hp, hu⟩, fun h k => ⟨_, hi, ?_, ?_, hp, hu⟩,
    fun h k => ⟨_, hi, ?_, ?_, hp, hu⟩⟩
  · simpa using (writeFlagged_plain f r x y s h k).1
  · simpa using (writeFlagged_plain f r x y s h k).2
  · subst h; unfold writeFlagged; cases s.params.vfOrder <;> simp [k, VfOrder.pick]
  · subst h; unfold writeFlagged; cases s.params.vfOrder <;> simp [k, VfOrder.pick]
  · subst k; unfold writeFlagged; cases s.params.vfOrder <;> simp [h, VfOrder.pick]
  · subst k; unfold writeFlagged; cases s.params.vfOrder <;> simp [h, Ne.symm h]
  · subst h k; rw [hb rfl]; unfold writeFlagged; cases s.params.vfOrder <;> simp [VfOrder.pick]
  · subst h k; rw [hb rfl]; unfold writeFlagged; cases s.params.vfOrder <;> simp [VfOrder.pick]

end Sys2Proof.Machine
end

