-- ==== Sys2Proof/Laws/Frame.lean ====
section
/-!
SUPPORT. What the governor, the close of a frame and a step can do, each said once (spec/10_state.md R29 to R32,
spec/60_exceptions.md R116).
-/

namespace Sys2Proof.Machine

/-- A governor run changes ACC, LAST_MS, DT and ST only. -/
theorem State.governed_eq (s : State) (n : Nat) :
    s.governed n = { s with
      acc := (s.governed n).acc, lastMs := (s.governed n).lastMs, dt := (s.governed n).dt,
      st := (s.governed n).st } := by
  simp only [State.governed]; split <;> rfl

@[simp] theorem State.governed_lastMs (s : State) (n : Nat) : (s.governed n).lastMs = n := by
  simp only [State.governed]; split <;> rfl

theorem decay_toNat (t : Byte) : (decay t).toNat = t.toNat - 1 := by
  unfold decay
  split
  · next h => subst h; rfl
  · next h =>
    have h1 : t.toNat ≠ 0 := fun e => h (BitVec.eq_of_toNat_eq e)
    have h2 := t.isLt
    rw [BitVec.toNat_sub]; simp; omega

/-- A run that reaches 166 units decrements once (R116). -/
theorem State.governed_tick (s : State) (n : Nat) (h : 166 ≤ s.acc + 10 * (n - s.lastMs)) :
    s.governed n = { s with
      acc := s.acc + 10 * (n - s.lastMs) - 166, lastMs := n, dt := decay s.dt, st := decay s.st } := by
  simp only [State.governed, Config.unitsPerMs, Config.tickUnits, h, if_true]

/-- A run that does not reach 166 units only accumulates (R116). -/
theorem State.governed_noTick (s : State) (n : Nat) (h : s.acc + 10 * (n - s.lastMs) < 166) :
    s.governed n = { s with acc := s.acc + 10 * (n - s.lastMs), lastMs := n } := by
  have h' : ¬ 166 ≤ s.acc + 10 * (n - s.lastMs) := by omega
  simp only [State.governed, Config.unitsPerMs, Config.tickUnits, h', if_false]

theorem governor_ok {n : Nat} {s : State} (h : s.lastMs ≤ n) : governor n s = .next (s.governed n) := by
  unfold governor; rw [if_neg (by omega)]

theorem governor_back {n : Nat} {s : State} (h : n < s.lastMs) : governor n s = .fault .clockBackwards := by
  unfold governor; rw [if_pos h]

/-- If the governor answers a next state, the clock has not gone backwards and the state is the governed one. -/
theorem governor_next {n : Nat} {s t : State} (h : governor n s = .next t) :
    s.lastMs ≤ n ∧ t = s.governed n := by
  unfold governor at h; split at h
  · cases h
  · cases h; exact ⟨by omega, rfl⟩

/-- Everything a frame's close can do when it answers a next state. -/
theorem closeFrame_next {n : Nat} {s t : State} (h : closeFrame n s = .next t) :
    (s.mode = .running ∧ s.lastMs ≤ n ∧ t = State.governed { s with frameDone := true } n) ∨
    ((∃ x, s.mode = .awaitingKey x) ∧ s.lastMs ≤ n ∧ t = s.governed n) ∨
    (s.mode ≠ .running ∧ t = s) := by
  unfold closeFrame at h
  split at h
  · next hm => obtain ⟨h1, h2⟩ := governor_next h; exact .inl ⟨hm, h1, h2⟩
  · next x hm =>
    split at h
    · obtain ⟨h1, h2⟩ := governor_next h; exact .inr (.inl ⟨⟨x, hm⟩, h1, h2⟩)
    · cases h; exact .inr (.inr ⟨by simp [hm], rfl⟩)
  · next hm => cases h; exact .inr (.inr ⟨by simp [hm], rfl⟩)
  · next hm => cases h; exact .inr (.inr ⟨by simp [hm], rfl⟩)

/-- A PC above 0xFFE has no word to fetch (R32). -/
theorem cycle_fetchFault {s : State} (h : s.pc.toNat > 0xFFE) :
    cycle s = .next (s.takeFault .fetchRange s.pc.toNat) := by
  unfold cycle; rw [if_pos h]; rfl

/-- Otherwise the cycle is exec of the word at PC (R32). -/
theorem cycle_exec {s : State} (h : s.pc.toNat ≤ 0xFFE) :
    cycle s = exec (decode (fetchWord s.mem s.pc.toNat)) s := by
  unfold cycle; rw [if_neg (by omega)]

/-- With a clock that has not gone backwards the frame step goes on (R125). -/
theorem withClock_ok {s : State} (k : FrameIn → Result) (h : s.lastMs ≤ s.nextFrame.nowMs) :
    withClock s k = k s.nextFrame := by
  unfold withClock; rw [if_neg (by omega)]

/-- With one that has, it has no move (R125). -/
theorem withClock_back {s : State} (k : FrameIn → Result) (h : s.nextFrame.nowMs < s.lastMs) :
    withClock s k = .fault .clockBackwards := by
  unfold withClock; rw [if_pos h]

theorem withClock_next {s t : State} {k : FrameIn → Result} (h : withClock s k = .next t) :
    s.lastMs ≤ s.nextFrame.nowMs ∧ k s.nextFrame = .next t := by
  by_cases hc : s.lastMs ≤ s.nextFrame.nowMs
  · exact ⟨hc, (withClock_ok k hc).symm.trans h⟩
  · rw [withClock_back k (by omega)] at h; cases h

/-- A step in Running. -/
theorem step_running {s : State} (h : s.mode = .running) : step s = withClock s fun f => runningFrame f s := by
  unfold step frameStep; rw [h]

/-- A step in AwaitingKey. -/
theorem step_awaiting {s : State} {x : Nibble} (h : s.mode = .awaitingKey x) :
    step s = withClock s fun f => waitPoll f x s := by
  unfold step frameStep; rw [h]

/-- Everything a step can do when it answers a next state: quit; a fetch fault or an executed instruction, and the
close of the frame; a wait poll; or nothing, in a terminal mode. -/
theorem step_next {s t : State} (h : step s = .next t) :
    (s.mode = .running ∧ s.lastMs ≤ s.nextFrame.nowMs ∧ s.nextFrame.quit = true ∧ t = s.takeFrame.setMode .stopped) ∨
    (s.mode = .running ∧ s.lastMs ≤ s.nextFrame.nowMs ∧ s.nextFrame.quit = false ∧ s.pc.toNat > 0xFFE ∧
      t = (s.openFrame s.nextFrame).takeFault .fetchRange s.pc.toNat) ∨
    (s.mode = .running ∧ s.lastMs ≤ s.nextFrame.nowMs ∧ s.nextFrame.quit = false ∧ s.pc.toNat ≤ 0xFFE ∧
      ∃ u, exec (decode (fetchWord s.mem s.pc.toNat)) (s.openFrame s.nextFrame) = .next u ∧
        closeFrame s.nextFrame.nowMs u = .next t) ∨
    (∃ x, s.mode = .awaitingKey x ∧ s.lastMs ≤ s.nextFrame.nowMs ∧ waitPoll s.nextFrame x s = .next t) ∨
    (((∃ c n, s.mode = .faulted c n) ∨ s.mode = .stopped) ∧ t = s) := by
  unfold step frameStep at h
  split at h
  · next hm =>
    obtain ⟨hc, h⟩ := withClock_next h
    unfold runningFrame at h
    split at h
    · next hq => cases h; exact .inl ⟨hm, hc, hq, rfl⟩
    · next hq =>
      have hq : s.nextFrame.quit = false := by simpa using hq
      by_cases hp : s.pc.toNat > 0xFFE
      · rw [cycle_fetchFault (s := s.openFrame s.nextFrame) hp] at h
        cases h
        exact .inr (.inl ⟨hm, hc, hq, hp, rfl⟩)
      · rw [cycle_exec (s := s.openFrame s.nextFrame) (by simpa using hp)] at h
        refine .inr (.inr (.inl ⟨hm, hc, hq, by omega, ?_⟩))
        split at h
        · next u hu => exact ⟨u, hu, h⟩
        · cases h
        · cases h
  · next x hm =>
    obtain ⟨hc, h⟩ := withClock_next h
    exact .inr (.inr (.inr (.inl ⟨x, hm, hc, h⟩)))
  · next c n hm => cases h; exact .inr (.inr (.inr (.inr ⟨.inl ⟨c, n, hm⟩, rfl⟩)))
  · next hm => cases h; exact .inr (.inr (.inr (.inr ⟨.inr hm, rfl⟩)))

end Sys2Proof.Machine
end

