-- ==== Sys2Proof/Laws/PerInstr.lean ====
section
/-!
SUPPORT. Per instruction: its encoding carries its own row's pattern under its own row's mask
(spec/30_encoding.md R55, R56).
-/

namespace Sys2Proof.Laws

/-- The encoding of a well-formed instruction matches the instruction's own row of the opcode map. -/
def OwnRow.Statement (i : Instr) : Prop := i.wf = true → i.row.matches (encode i) = true

/-- A match shown bit by bit. -/
theorem OwnRow.of_bits {r : OpcodeRow} {w : Word}
    (h : ∀ k < 16, (w.getLsbD k && r.mask.getLsbD k) = r.pat.getLsbD k) : r.matches w = true := by
  simp only [OpcodeRow.matches, beq_iff_eq]
  apply BitVec.eq_of_getLsbD_eq
  intro k hk
  rw [BitVec.getLsbD_and]
  exact h k hk

theorem OwnRow.cls : OwnRow.Statement .cls := by
  intro _; decide

theorem OwnRow.ret : OwnRow.Statement .ret := by
  intro _; decide

theorem OwnRow.jp (nnn : Addr) : OwnRow.Statement (.jp nnn) := by
  intro _
  refine OwnRow.of_bits fun k hk => ?_
  simp only [Instr.row, encode, BitVec.getLsbD_append]
  interval_cases k <;> simp

theorem OwnRow.call (nnn : Addr) : OwnRow.Statement (.call nnn) := by
  intro _
  refine OwnRow.of_bits fun k hk => ?_
  simp only [Instr.row, encode, BitVec.getLsbD_append]
  interval_cases k <;> simp

theorem OwnRow.seImm (x : Nibble) (nn : Byte) : OwnRow.Statement (.seImm x nn) := by
  intro _
  refine OwnRow.of_bits fun k hk => ?_
  simp only [Instr.row, encode, BitVec.getLsbD_append]
  interval_cases k <;> simp

theorem OwnRow.sneImm (x : Nibble) (nn : Byte) : OwnRow.Statement (.sneImm x nn) := by
  intro _
  refine OwnRow.of_bits fun k hk => ?_
  simp only [Instr.row, encode, BitVec.getLsbD_append]
  interval_cases k <;> simp

theorem OwnRow.seReg (x : Nibble) (y : Nibble) : OwnRow.Statement (.seReg x y) := by
  intro _
  refine OwnRow.of_bits fun k hk => ?_
  simp only [Instr.row, encode, BitVec.getLsbD_append]
  interval_cases k <;> simp

theorem OwnRow.ldImm (x : Nibble) (nn : Byte) : OwnRow.Statement (.ldImm x nn) := by
  intro _
  refine OwnRow.of_bits fun k hk => ?_
  simp only [Instr.row, encode, BitVec.getLsbD_append]
  interval_cases k <;> simp

theorem OwnRow.addImm (x : Nibble) (nn : Byte) : OwnRow.Statement (.addImm x nn) := by
  intro _
  refine OwnRow.of_bits fun k hk => ?_
  simp only [Instr.row, encode, BitVec.getLsbD_append]
  interval_cases k <;> simp

theorem OwnRow.ldReg (x : Nibble) (y : Nibble) : OwnRow.Statement (.ldReg x y) := by
  intro _
  refine OwnRow.of_bits fun k hk => ?_
  simp only [Instr.row, encode, BitVec.getLsbD_append]
  interval_cases k <;> simp

theorem OwnRow.orReg (x : Nibble) (y : Nibble) : OwnRow.Statement (.orReg x y) := by
  intro _
  refine OwnRow.of_bits fun k hk => ?_
  simp only [Instr.row, encode, BitVec.getLsbD_append]
  interval_cases k <;> simp

theorem OwnRow.andReg (x : Nibble) (y : Nibble) : OwnRow.Statement (.andReg x y) := by
  intro _
  refine OwnRow.of_bits fun k hk => ?_
  simp only [Instr.row, encode, BitVec.getLsbD_append]
  interval_cases k <;> simp

theorem OwnRow.xorReg (x : Nibble) (y : Nibble) : OwnRow.Statement (.xorReg x y) := by
  intro _
  refine OwnRow.of_bits fun k hk => ?_
  simp only [Instr.row, encode, BitVec.getLsbD_append]
  interval_cases k <;> simp

theorem OwnRow.addReg (x : Nibble) (y : Nibble) : OwnRow.Statement (.addReg x y) := by
  intro _
  refine OwnRow.of_bits fun k hk => ?_
  simp only [Instr.row, encode, BitVec.getLsbD_append]
  interval_cases k <;> simp

theorem OwnRow.sub (x : Nibble) (y : Nibble) : OwnRow.Statement (.sub x y) := by
  intro _
  refine OwnRow.of_bits fun k hk => ?_
  simp only [Instr.row, encode, BitVec.getLsbD_append]
  interval_cases k <;> simp

theorem OwnRow.shr (x : Nibble) (y : Nibble) : OwnRow.Statement (.shr x y) := by
  intro _
  refine OwnRow.of_bits fun k hk => ?_
  simp only [Instr.row, encode, BitVec.getLsbD_append]
  interval_cases k <;> simp

theorem OwnRow.subn (x : Nibble) (y : Nibble) : OwnRow.Statement (.subn x y) := by
  intro _
  refine OwnRow.of_bits fun k hk => ?_
  simp only [Instr.row, encode, BitVec.getLsbD_append]
  interval_cases k <;> simp

theorem OwnRow.shl (x : Nibble) (y : Nibble) : OwnRow.Statement (.shl x y) := by
  intro _
  refine OwnRow.of_bits fun k hk => ?_
  simp only [Instr.row, encode, BitVec.getLsbD_append]
  interval_cases k <;> simp

theorem OwnRow.sneReg (x : Nibble) (y : Nibble) : OwnRow.Statement (.sneReg x y) := by
  intro _
  refine OwnRow.of_bits fun k hk => ?_
  simp only [Instr.row, encode, BitVec.getLsbD_append]
  interval_cases k <;> simp

theorem OwnRow.sneQ (x : Nibble) (y : Nibble) (n : Nibble) : OwnRow.Statement (.sneQ x y n) := by
  intro _
  refine OwnRow.of_bits fun k hk => ?_
  simp only [Instr.row, quirkRow, encode, BitVec.getLsbD_append]
  interval_cases k <;> simp

theorem OwnRow.ldI (nnn : Addr) : OwnRow.Statement (.ldI nnn) := by
  intro _
  refine OwnRow.of_bits fun k hk => ?_
  simp only [Instr.row, encode, BitVec.getLsbD_append]
  interval_cases k <;> simp

theorem OwnRow.jpV0 (nnn : Addr) : OwnRow.Statement (.jpV0 nnn) := by
  intro _
  refine OwnRow.of_bits fun k hk => ?_
  simp only [Instr.row, encode, BitVec.getLsbD_append]
  interval_cases k <;> simp

theorem OwnRow.rnd (x : Nibble) (nn : Byte) : OwnRow.Statement (.rnd x nn) := by
  intro _
  refine OwnRow.of_bits fun k hk => ?_
  simp only [Instr.row, encode, BitVec.getLsbD_append]
  interval_cases k <;> simp

theorem OwnRow.drw (x : Nibble) (y : Nibble) (n : Nibble) : OwnRow.Statement (.drw x y n) := by
  intro _
  refine OwnRow.of_bits fun k hk => ?_
  simp only [Instr.row, encode, BitVec.getLsbD_append]
  interval_cases k <;> simp

theorem OwnRow.skp (x : Nibble) : OwnRow.Statement (.skp x) := by
  intro _
  refine OwnRow.of_bits fun k hk => ?_
  simp only [Instr.row, encode, BitVec.getLsbD_append]
  interval_cases k <;> simp

theorem OwnRow.sknp (x : Nibble) : OwnRow.Statement (.sknp x) := by
  intro _
  refine OwnRow.of_bits fun k hk => ?_
  simp only [Instr.row, encode, BitVec.getLsbD_append]
  interval_cases k <;> simp

theorem OwnRow.ldVxDt (x : Nibble) : OwnRow.Statement (.ldVxDt x) := by
  intro _
  refine OwnRow.of_bits fun k hk => ?_
  simp only [Instr.row, encode, BitVec.getLsbD_append]
  interval_cases k <;> simp

theorem OwnRow.ldVxK (x : Nibble) : OwnRow.Statement (.ldVxK x) := by
  intro _
  refine OwnRow.of_bits fun k hk => ?_
  simp only [Instr.row, encode, BitVec.getLsbD_append]
  interval_cases k <;> simp

theorem OwnRow.ldDtVx (x : Nibble) : OwnRow.Statement (.ldDtVx x) := by
  intro _
  refine OwnRow.of_bits fun k hk => ?_
  simp only [Instr.row, encode, BitVec.getLsbD_append]
  interval_cases k <;> simp

theorem OwnRow.ldStVx (x : Nibble) : OwnRow.Statement (.ldStVx x) := by
  intro _
  refine OwnRow.of_bits fun k hk => ?_
  simp only [Instr.row, encode, BitVec.getLsbD_append]
  interval_cases k <;> simp

theorem OwnRow.addI (x : Nibble) : OwnRow.Statement (.addI x) := by
  intro _
  refine OwnRow.of_bits fun k hk => ?_
  simp only [Instr.row, encode, BitVec.getLsbD_append]
  interval_cases k <;> simp

theorem OwnRow.ldF (x : Nibble) : OwnRow.Statement (.ldF x) := by
  intro _
  refine OwnRow.of_bits fun k hk => ?_
  simp only [Instr.row, encode, BitVec.getLsbD_append]
  interval_cases k <;> simp

theorem OwnRow.ldB (x : Nibble) : OwnRow.Statement (.ldB x) := by
  intro _
  refine OwnRow.of_bits fun k hk => ?_
  simp only [Instr.row, encode, BitVec.getLsbD_append]
  interval_cases k <;> simp

theorem OwnRow.ldMemVx (x : Nibble) : OwnRow.Statement (.ldMemVx x) := by
  intro _
  refine OwnRow.of_bits fun k hk => ?_
  simp only [Instr.row, encode, BitVec.getLsbD_append]
  interval_cases k <;> simp

theorem OwnRow.ldVxMem (x : Nibble) : OwnRow.Statement (.ldVxMem x) := by
  intro _
  refine OwnRow.of_bits fun k hk => ?_
  simp only [Instr.row, encode, BitVec.getLsbD_append]
  interval_cases k <;> simp

theorem OwnRow.unknown (w : Word) : OwnRow.Statement (.unknown w) := by
  intro _; simp [Instr.row, unknownRow, OpcodeRow.matches]

end Sys2Proof.Laws
end

