-- ==== Sys2Proof/Tests/Slice0.lean ====
section
/-!
SUPPORT. The model's own tests: expected results come from spec/95_test_vectors.md (the vector is named in each
docstring) or from the words of a rule, never from the model; and for every obligation with hypotheses a witness
that meets them.
-/

namespace Sys2Proof.Tests

open Sys2Proof Sys2Proof.Machine

/-! ### Helpers -/

/-- The reset state with some registers set. -/
def regs (l : List (Nibble × Byte)) : State := l.foldl (fun s p => s.setV p.1 p.2) State.reset

/-- A state with I set. -/
def withI (s : State) (i : Word) : State := { s with i := i }

/-- A state with bytes stored from 0x300 and I = 0x300. -/
def at300 (s : State) (bytes : List Byte) : State :=
  { s with i := 0x300#16, mem := Memory.setBytes s.mem 0x300 bytes }

/-- A state with the flag-order parameter set. -/
def ordered (o : VfOrder) (s : State) : State := { s with params := { s.params with vfOrder := o } }

/-- A state with the unknown-opcode policy set. -/
def refusing (s : State) : State := { s with params := { s.params with unknownPolicy := .refuse } }

/-- A state with KEY_PICK = lowest. -/
def lowestKey (s : State) : State := { s with params := { s.params with keyPick := .lowest } }

/-- A state with TIMERS_DURING_KEYWAIT set. -/
def tickingWait (s : State) : State := { s with params := { s.params with timersDuringKeywait := true } }

/-- A state with STACK_SLOT_WIDTH set. -/
def narrowStack (n : Nat) (s : State) : State := { s with params := { s.params with stackSlotWidth := n } }

/-- One frame of the host. -/
def hostGives (keys : BitVec 16) (now : Nat) (s : State) : State :=
  { s with inputs := [{ keys := keys, nowMs := now, rand8 := 0xA7#8, quit := false }] }

/-- A frame in which the host asks to quit. -/
def hostQuits (s : State) : State :=
  { s with inputs := [{ keys := 0#16, nowMs := 0, rand8 := 0#8, quit := true }] }

/-- The state with a word stored at PC and an idle host frame. -/
def loaded (w : Word) (s : State) : State :=
  hostGives 0#16 0 { s with mem := Memory.setBytes s.mem s.pc.toNat (bytesOfWord w) }

/-- Something of the next state, if there is one. -/
def look {α : Type} (f : State → α) (r : Result) : Option α :=
  match r with
  | .next t => some (f t)
  | .fault _ => none
  | .refused _ => none

/-- Run the word on a state. -/
def run (w : Word) (s : State) : Result := exec (decode w) s

/-- The registers V1 and VF, and PC. -/
def v1vfPc (t : State) : Byte × Byte × Word := (t.getV 1, t.getV 0xF, t.pc)

/-- Three bytes of memory from an address. -/
def three (a : Nat) (t : State) : List Byte := Memory.getBytes t.mem a 3

/-- The values of some pixels (x, y). -/
def pixels (l : List (Nat × Nat)) (t : State) : List Bool := l.map fun p => Framebuffer.pixel t.fb p.1 p.2

/-! ### Well-formedness -/

/-- R56: the quirk row has n other than 0. -/
theorem test_wf_refuses_quirk_with_zero : (Instr.sneQ 1 2 0).wf = false := by decide

/-- R57: 0x00E0 and 0x8124 are no unknown words. -/
theorem test_wf_refuses_known_word_as_unknown :
    (Instr.unknown 0x00E0#16).wf = false ∧ (Instr.unknown 0x8124#16).wf = false ∧
    (Instr.unknown 0x9121#16).wf = false := by decide

/-- R57: words of its families are. -/
theorem test_wf_admits_unknown_words :
    (Instr.unknown 0x0000#16).wf = true ∧ (Instr.unknown 0x5121#16).wf = true ∧
    (Instr.unknown 0x800F#16).wf = true ∧ (Instr.unknown 0xE09F#16).wf = true ∧
    (Instr.unknown 0xF0FF#16).wf = true := by decide

/-! ### Decoding: a word of every row of R56, written out from its pattern -/

theorem test_decode_system : decode 0x00E0#16 = .cls ∧ decode 0x00EE#16 = .ret := by decide

theorem test_decode_flow :
    decode 0x1ABC#16 = .jp 0xABC#12 ∧ decode 0x2ABC#16 = .call 0xABC#12 ∧ decode 0xBABC#16 = .jpV0 0xABC#12 := by
  decide

theorem test_decode_skips :
    decode 0x3A5C#16 = .seImm 0xA#4 0x5C#8 ∧ decode 0x4A5C#16 = .sneImm 0xA#4 0x5C#8 ∧
    decode 0x5A70#16 = .seReg 0xA#4 0x7#4 ∧ decode 0x9A70#16 = .sneReg 0xA#4 0x7#4 ∧
    decode 0x9A73#16 = .sneQ 0xA#4 0x7#4 0x3#4 := by decide

theorem test_decode_loads :
    decode 0x6A5C#16 = .ldImm 0xA#4 0x5C#8 ∧ decode 0x7A5C#16 = .addImm 0xA#4 0x5C#8 ∧
    decode 0xCA5C#16 = .rnd 0xA#4 0x5C#8 ∧ decode 0x8A70#16 = .ldReg 0xA#4 0x7#4 := by decide

theorem test_decode_alu :
    decode 0x8A71#16 = .orReg 0xA#4 0x7#4 ∧ decode 0x8A72#16 = .andReg 0xA#4 0x7#4 ∧
    decode 0x8A73#16 = .xorReg 0xA#4 0x7#4 ∧ decode 0x8A74#16 = .addReg 0xA#4 0x7#4 ∧
    decode 0x8A75#16 = .sub 0xA#4 0x7#4 ∧ decode 0x8A76#16 = .shr 0xA#4 0x7#4 ∧
    decode 0x8A77#16 = .subn 0xA#4 0x7#4 ∧ decode 0x8A7E#16 = .shl 0xA#4 0x7#4 := by decide

theorem test_decode_index :
    decode 0xAABC#16 = .ldI 0xABC#12 ∧ decode 0xFA1E#16 = .addI 0xA#4 ∧ decode 0xFA29#16 = .ldF 0xA#4 ∧
    decode 0xFA33#16 = .ldB 0xA#4 ∧ decode 0xFA55#16 = .ldMemVx 0xA#4 ∧ decode 0xFA65#16 = .ldVxMem 0xA#4 := by
  decide

theorem test_decode_display : decode 0xDA73#16 = .drw 0xA#4 0x7#4 0x3#4 := by decide

theorem test_decode_input_timers :
    decode 0xEA9E#16 = .skp 0xA#4 ∧ decode 0xEAA1#16 = .sknp 0xA#4 ∧ decode 0xFA07#16 = .ldVxDt 0xA#4 ∧
    decode 0xFA0A#16 = .ldVxK 0xA#4 ∧ decode 0xFA15#16 = .ldDtVx 0xA#4 ∧ decode 0xFA18#16 = .ldStVx 0xA#4 := by
  decide

/-- The unknown words of 95 section 2.1. -/
theorem test_decode_unknown :
    decode 0x01E0#16 = .unknown 0x01E0#16 ∧ decode 0x0000#16 = .unknown 0x0000#16 ∧
    decode 0x00EF#16 = .unknown 0x00EF#16 ∧ decode 0x5121#16 = .unknown 0x5121#16 ∧
    decode 0x8008#16 = .unknown 0x8008#16 ∧ decode 0x800F#16 = .unknown 0x800F#16 ∧
    decode 0xE09F#16 = .unknown 0xE09F#16 ∧ decode 0xF000#16 = .unknown 0xF000#16 ∧
    decode 0xF0FF#16 = .unknown 0xF0FF#16 := by decide

/-- R42: the byte at the lower address is the high byte; fewer than two bytes are no instruction (R59). -/
theorem test_decode_bytes :
    decodeBytes [0x6A#8, 0x5C#8, 0x01#8] = .ok (.ldImm 0xA#4 0x5C#8, [0x01#8]) ∧
    decodeBytes [0x6A#8] = .error .tooShort ∧ decodeTableWord 16 0x6A5C = some (.ldImm 0xA#4 0x5C#8) := by
  refine ⟨rfl, rfl, rfl⟩

/-- The encoder against patterns of R56. -/
theorem test_encode_words :
    encode (.drw 0xA#4 0x7#4 0x3#4) = 0xDA73#16 ∧ encode (.ldB 0xA#4) = 0xFA33#16 ∧
    encode (.jp 0xABC#12) = 0x1ABC#16 ∧ encode (.shl 0xA#4 0x7#4) = 0x8A7E#16 := by decide

/-! ### Control flow (95 section 2.2) -/

/-- F1 -/
theorem test_ret_pops :
    look (fun t => (t.pc, t.sp, t.stack[1]))
      (run 0x00EE#16 { State.reset with sp := 1#8, stack := State.reset.stack.set 1 0x204#16 }) =
    some (0x204#16, 0#8, 0x204#16) := by decide

/-- F2 -/
theorem test_ret_underflow :
    look (fun t => (t.mode, t.pc, t.sp)) (run 0x00EE#16 State.reset) =
    some (.faulted .stackUnderflow 0x200, 0x200#16, 0#8) := by decide

/-- S2 -/
theorem test_jp_exact : look (·.pc) (run 0x1228#16 State.reset) = some 0x228#16 := by decide

/-- F3 -/
theorem test_call_to_slot_15 :
    look (fun t => (t.sp, t.stack[15], t.pc)) (run 0x2400#16 { State.reset with pc := 0x300#16, sp := 14#8 }) =
    some (15#8, 0x302#16, 0x400#16) := by decide

/-- F5: the widest push, 0x1000, is whole in a slot of 13 bits and cut in one of 12 (92 D17). -/
theorem test_call_slot_width :
    look (·.stack[1]) (run 0x2400#16 (narrowStack 13 { State.reset with pc := 0xFFE#16 })) = some 0x1000#16 ∧
    look (·.stack[1]) (run 0x2400#16 (narrowStack 12 { State.reset with pc := 0xFFE#16 })) = some 0x0000#16 := by
  decide

/-- F4 -/
theorem test_call_overflow :
    look (fun t => (t.mode, t.pc, t.sp)) (run 0x2400#16 { State.reset with pc := 0x300#16, sp := 15#8 }) =
    some (.faulted .stackOverflow 0x300, 0x300#16, 15#8) := by decide

/-- F6, F8 -/
theorem test_jpV0 :
    look (·.pc) (run 0xB300#16 (regs [(0, 0x12)])) = some 0x312#16 ∧
    look (·.pc) (run 0xBFFF#16 (regs [(0, 0xFF)])) = some 0x10FE#16 := by decide

/-- F9 -/
theorem test_seImm :
    look (·.pc) (run 0x3310#16 (regs [(3, 0x10)])) = some 0x204#16 ∧
    look (·.pc) (run 0x3311#16 (regs [(3, 0x10)])) = some 0x202#16 := by decide

/-- F10 -/
theorem test_sneImm :
    look (·.pc) (run 0x4311#16 (regs [(3, 0x10)])) = some 0x204#16 ∧
    look (·.pc) (run 0x4310#16 (regs [(3, 0x10)])) = some 0x202#16 := by decide

/-- F11, F12 -/
theorem test_seReg :
    look (·.pc) (run 0x5120#16 (regs [(1, 7), (2, 7)])) = some 0x204#16 ∧
    look (·.pc) (run 0x5110#16 (regs [(1, 7)])) = some 0x204#16 := by decide

/-- F13, F14 -/
theorem test_sneReg :
    look (·.pc) (run 0x9120#16 (regs [(1, 7), (2, 8)])) = some 0x204#16 ∧
    look (·.pc) (run 0x9110#16 (regs [(1, 7)])) = some 0x202#16 := by decide

/-- 95 section 2.1, row 0x9125 -/
theorem test_sneQ :
    look (fun t => (t.pc, t.dbgUnknown)) (run 0x9125#16 (regs [(1, 7), (2, 8)])) = some (0x204#16, true) ∧
    look (fun t => (t.pc, t.dbgUnknown)) (run 0x9125#16 (regs [(1, 7), (2, 7)])) = some (0x202#16, true) := by decide

/-- 95 section 2.1, rows 0x5121 and 0x01E0 -/
theorem test_unknown_advances :
    look (fun t => (t.pc, t.dbgUnknown)) (run 0x5121#16 (regs [(1, 7), (2, 7)])) = some (0x202#16, true) ∧
    look (fun t => (t.pc, t.mode)) (run 0x01E0#16 State.reset) = some (0x202#16, .running) := by decide

/-- 95 section 2.1, last row -/
theorem test_unknown_refused : run 0x0123#16 (refusing State.reset) = .refused (.unknownOpcode 0x0123#16) := rfl

/-! ### Loads and ALU (95 section 2.3) -/

/-- S1 -/
theorem test_ldImm :
    look (fun t => (t.getV 0xA, t.pc)) (run 0x6A42#16 State.reset) = some (0x42#8, 0x202#16) := by decide

/-- A1, A2 -/
theorem test_addImm :
    look (fun t => (t.getV 0, t.getV 0xF)) (run 0x7002#16 (regs [(0, 0xFF)])) = some (1#8, 0#8) ∧
    look (fun t => t.getV 0xF) (run 0x7FFF#16 (regs [(0xF, 5)])) = some 4#8 := by decide

/-- A3 -/
theorem test_ldReg : look v1vfPc (run 0x8120#16 (regs [(2, 0x33)])) = some (0x33#8, 0#8, 0x202#16) := by decide

/-- A4, A5 -/
theorem test_or :
    look v1vfPc (run 0x8121#16 (regs [(1, 0x0F), (2, 0xF0), (0xF, 0x55)])) = some (0xFF#8, 0#8, 0x202#16) ∧
    look v1vfPc (run 0x8121#16
      { regs [(1, 0x0F), (2, 0xF0), (0xF, 0x55)] with
        params := { Config.defaultParams with logicClearsVf := false } }) = some (0xFF#8, 0x55#8, 0x202#16) := by
  decide

/-- A31 -/
theorem test_or_into_vf :
    look (·.getV 0xF) (run 0x8F21#16 (regs [(0xF, 0x0F), (2, 0xF0)])) = some 0xF0#8 ∧
    look (·.getV 0xF) (run 0x8F21#16 (ordered .latchedVfFirst (regs [(0xF, 0x0F), (2, 0xF0)]))) = some 0xFF#8 ∧
    look (·.getV 0xF) (run 0x8F21#16 (ordered .latchedVfLast (regs [(0xF, 0x0F), (2, 0xF0)]))) = some 0#8 := by
  decide

/-- A6, A32 -/
theorem test_and :
    look v1vfPc (run 0x8122#16 (regs [(1, 0x3C), (2, 0x0F), (0xF, 1)])) = some (0x0C#8, 0#8, 0x202#16) ∧
    look v1vfPc (run 0x81F2#16 (regs [(1, 0xFF), (0xF, 0xFF)])) = some (0#8, 0#8, 0x202#16) ∧
    look v1vfPc (run 0x81F2#16 (ordered .latchedVfLast (regs [(1, 0xFF), (0xF, 0xFF)]))) =
      some (0xFF#8, 0#8, 0x202#16) := by decide

/-- A7, A8 -/
theorem test_xor :
    look v1vfPc (run 0x8123#16 (regs [(1, 0xFF), (2, 0x0F)])) = some (0xF0#8, 0#8, 0x202#16) ∧
    look v1vfPc (run 0x8113#16 (regs [(1, 0x5A)])) = some (0#8, 0#8, 0x202#16) := by decide

/-- S4a, S4b, A9 -/
theorem test_add_carry :
    look v1vfPc (run 0x8124#16 (regs [(1, 0xFF), (2, 1)])) = some (0#8, 1#8, 0x202#16) ∧
    look v1vfPc (run 0x8124#16 (regs [(1, 1), (2, 1)])) = some (2#8, 0#8, 0x202#16) ∧
    look v1vfPc (run 0x8114#16 (regs [(1, 0x80)])) = some (0#8, 1#8, 0x202#16) := by decide

/-- A24, A25, A26 -/
theorem test_add_with_vf :
    look (·.getV 0xF) (run 0x8F24#16 (regs [(0xF, 0xF0), (2, 0x20)])) = some 0x21#8 ∧
    look (·.getV 0xF) (run 0x8F24#16 (ordered .latchedVfFirst (regs [(0xF, 0xF0), (2, 0x20)]))) = some 0x10#8 ∧
    look (·.getV 0xF) (run 0x8F24#16 (ordered .latchedVfLast (regs [(0xF, 0xF0), (2, 0x20)]))) = some 0x01#8 ∧
    look v1vfPc (run 0x81F4#16 (regs [(1, 0x10), (0xF, 0xF0)])) = some (0x11#8, 1#8, 0x202#16) ∧
    look (·.getV 0xF) (run 0x8FF4#16 (regs [(0xF, 0x90)])) = some 2#8 := by decide

/-- A10 to A12 -/
theorem test_sub :
    look v1vfPc (run 0x8125#16 (regs [(1, 5), (2, 3)])) = some (2#8, 1#8, 0x202#16) ∧
    look v1vfPc (run 0x8125#16 (regs [(1, 5), (2, 5)])) = some (0#8, 0#8, 0x202#16) ∧
    look v1vfPc (run 0x8125#16 (regs [(1, 1), (2, 2)])) = some (0xFF#8, 0#8, 0x202#16) := by decide

/-- A27 -/
theorem test_sub_with_vf :
    look (·.getV 0xF) (run 0x8F25#16 (regs [(0xF, 9), (2, 3)])) = some 0xFE#8 ∧
    look (·.getV 0xF) (run 0x8F25#16 (ordered .latchedVfFirst (regs [(0xF, 9), (2, 3)]))) = some 6#8 ∧
    look (·.getV 0xF) (run 0x8F25#16 (ordered .latchedVfLast (regs [(0xF, 9), (2, 3)]))) = some 1#8 := by decide

/-- A13 to A15 -/
theorem test_subn :
    look v1vfPc (run 0x8127#16 (regs [(1, 3), (2, 5)])) = some (2#8, 1#8, 0x202#16) ∧
    look v1vfPc (run 0x8127#16 (regs [(1, 5), (2, 3)])) = some (0xFE#8, 0#8, 0x202#16) ∧
    look v1vfPc (run 0x8127#16 (regs [(1, 4), (2, 4)])) = some (0#8, 0#8, 0x202#16) := by decide

/-- S5, A17 -/
theorem test_shr_of_vy :
    look v1vfPc (run 0x8126#16 (regs [(2, 3)])) = some (1#8, 1#8, 0x202#16) ∧
    look v1vfPc (run 0x8126#16 (regs [(1, 0xAA), (2, 2)])) = some (1#8, 0#8, 0x202#16) := by decide

/-- A16, A29 -/
theorem test_shr_same_register :
    look v1vfPc (run 0x8116#16 (regs [(1, 0x81)])) = some (0x40#8, 1#8, 0x202#16) ∧
    look v1vfPc (run 0x81F6#16 (regs [(0xF, 3)])) = some (0#8, 1#8, 0x202#16) := by decide

/-- A18, A20 -/
theorem test_shl_of_vy :
    look v1vfPc (run 0x812E#16 (regs [(2, 0x81)])) = some (2#8, 1#8, 0x202#16) ∧
    look v1vfPc (run 0x812E#16 (regs [(2, 0x7F)])) = some (0xFE#8, 0#8, 0x202#16) := by decide

/-- A21, A22 -/
theorem test_rnd :
    look v1vfPc (run 0xC10F#16 { State.reset with rand8 := 0xA7#8 }) = some (7#8, 0#8, 0x202#16) ∧
    look v1vfPc (run 0xC100#16 { State.reset with rand8 := 0xA7#8 }) = some (0#8, 0#8, 0x202#16) := by decide

/-! ### Index register and memory (95 section 2.4) -/

/-- M1 -/
theorem test_ldI : look (fun t => (t.i, t.pc)) (run 0xA2F0#16 State.reset) = some (0x2F0#16, 0x202#16) := by decide

/-- M2, M3 -/
theorem test_addI :
    look (fun t => (t.i, t.getV 0xF)) (run 0xF11E#16 (withI (regs [(1, 2)]) 0xFFF#16)) = some (0x1001#16, 0#8) ∧
    look (·.i) (run 0xF11E#16 (withI (regs [(1, 2)]) 0xFFFF#16)) = some 1#16 := by decide

/-- M4, M6 -/
theorem test_ldF :
    look (·.i) (run 0xF029#16 (regs [(0, 0x0A)])) = some 0x082#16 ∧
    look (·.i) (run 0xF029#16 (regs [(0, 0xFF)])) = some 0x54B#16 := by decide

/-- S8a, M7 -/
theorem test_ldB :
    look (fun t => (three 0x300 t, t.i)) (run 0xF033#16 (withI (regs [(0, 0xFF)]) 0x300#16)) =
      some ([2, 5, 5], 0x300#16) ∧
    look (three 0xFFD) (run 0xF033#16 (withI (regs [(0, 123)]) 0xFFD#16)) = some [1, 2, 3] := by decide

/-- M8 -/
theorem test_ldB_out_of_range :
    look (fun t => (t.mode, t.mem, t.pc)) (run 0xF033#16 (withI (regs [(0, 123)]) 0xFFE#16)) =
    some (.faulted .dataRange 0x1000, [], 0x200#16) := by decide

/-- M11, M12 -/
theorem test_ldMemVx :
    look (fun t => (three 0x300 t, t.i)) (run 0xF255#16 (withI (regs [(0, 1), (1, 2), (2, 3)]) 0x300#16)) =
      some ([1, 2, 3], 0x303#16) ∧
    look (fun t => (Memory.get t.mem 0xFFF, t.i)) (run 0xF055#16 (withI (regs [(0, 9)]) 0xFFF#16)) =
      some (9#8, 0x1000#16) := by decide

/-- M13 -/
theorem test_ldMemVx_out_of_range :
    look (fun t => (t.mode, t.mem, t.i)) (run 0xF255#16 (withI (regs [(0, 1)]) 0xFFE#16)) =
    some (.faulted .dataRange 0x1000, [], 0xFFE#16) := by decide

/-- M14 -/
theorem test_ldVxMem :
    look (fun t => (t.getV 0, t.getV 1, t.getV 2, t.i)) (run 0xF165#16 (at300 (regs [(2, 0x77)]) [7, 8, 9])) =
    some (7#8, 8#8, 0x77#8, 0x302#16) := by decide

/-- M15 -/
theorem test_ldVxMem_out_of_range :
    look (·.mode) (run 0xF065#16 (withI State.reset 0x1000#16)) = some (.faulted .dataRange 0x1000) := by decide

/-! ### Display (95 section 2.5) -/

/-- S7, at the pixel that was on and the corners -/
theorem test_cls :
    look (fun t => (pixels [(63, 31), (0, 0), (63, 0), (0, 31)] t, t.getV 0xF)) (run 0x00E0#16
      { regs [(0xF, 9)] with fb := Framebuffer.setPixel State.reset.fb 63 31 true }) =
    some ([false, false, false, false], 9#8) := by decide

/-- D1: the corners of the visible part, and where a wrapping body would land -/
theorem test_drw_clips :
    look (fun t => (pixels [(60, 30), (63, 31), (59, 30), (0, 30), (60, 0)] t, t.getV 0xF))
      (run 0xD123#16 (at300 (regs [(1, 60), (2, 30)]) [0xFF, 0xFF, 0xFF])) =
    some ([true, true, false, false, false], 0#8) := by decide

/-- D2: the origin wraps, bit 7 is leftmost. -/
theorem test_drw_wraps_origin :
    look (pixels [(3, 1), (10, 1), (4, 1), (9, 1), (3, 0)]) (run 0xD121#16 (at300 (regs [(1, 67), (2, 33)]) [0x81])) =
    some [true, true, false, false, false] := by decide

/-- D3, D4: a 0 bit over a pixel that is on is no collision. -/
theorem test_drw_collides :
    look (fun t => (pixels [(0, 0), (1, 0)] t, t.getV 0xF)) (run 0xD121#16
      (at300 { State.reset with
        fb := Framebuffer.setPixel (Framebuffer.setPixel State.reset.fb 0 0 true) 1 0 true } [0x80])) =
      some ([false, true], 1#8) ∧
    look (fun t => (pixels [(0, 0), (7, 0)] t, t.getV 0xF)) (run 0xD121#16
      (at300 { State.reset with fb := Framebuffer.setPixel State.reset.fb 0 0 true } [0x7F])) =
      some ([true, true], 0#8) := by decide

/-- D7 -/
theorem test_drw_out_of_range :
    look (fun t => (t.mode, t.getV 0xF)) (run 0xD122#16 (withI (regs [(0xF, 5)]) 0xFFF#16)) =
    some (.faulted .dataRange 0x1000, 5#8) := by decide

/-- D9 -/
theorem test_drw_vf_coordinate :
    look (pixels [(0, 0), (10, 0)]) (run 0xDF11#16 (at300 (regs [(0xF, 10)]) [0x80])) = some [true, false] ∧
    look (pixels [(0, 0), (10, 0)]) (run 0xDF11#16 (ordered .latchedVfLast (at300 (regs [(0xF, 10)]) [0x80]))) =
      some [false, true] := by decide

/-- D10: the lower rows of glyph A of the default font. -/
theorem test_drw_glyph :
    look (pixels [(0, 2), (1, 2), (2, 2), (3, 2), (4, 2), (0, 4), (1, 4), (2, 4), (3, 4)])
      (run 0xD015#16 (withI State.reset 0x082#16)) =
    some [true, true, true, true, false, true, false, false, true] := by decide

/-! ### Input and timers (95 section 2.6) -/

/-- K1, K2 -/
theorem test_skp :
    look (·.pc) (run 0xE59E#16 { regs [(5, 0x0A)] with latch := 0x0400#16 }) = some 0x204#16 ∧
    look (·.pc) (run 0xE59E#16 (regs [(5, 0x0A)])) = some 0x202#16 := by decide

/-- K5 -/
theorem test_skp_key_range :
    look (fun t => (t.mode, t.pc)) (run 0xE19E#16 (regs [(1, 0x10)])) =
    some (.faulted .keyRange 0x10, 0x200#16) := by decide

/-- K3, K4 -/
theorem test_sknp :
    look (·.pc) (run 0xE5A1#16 (regs [(5, 0x0A)])) = some 0x204#16 ∧
    look (·.pc) (run 0xE1A1#16 (regs [(1, 0x0F)])) = some 0x204#16 := by decide

/-- K6 -/
theorem test_ldVxK_waits :
    look (fun t => (t.mode, t.pc)) (run 0xF30A#16 State.reset) = some (.awaitingKey 3, 0x200#16) := by decide

/-- K8, K9 -/
theorem test_ldVxK_stores :
    look (fun t => (t.getV 3, t.pc)) (run 0xF30A#16 { State.reset with latch := 0x0010#16 }) =
      some (4#8, 0x202#16) ∧
    look (·.getV 3) (run 0xF30A#16 (lowestKey { State.reset with latch := 0x0204#16 })) = some 2#8 := by decide

/-- K11 -/
theorem test_ldVxDt :
    look (·.getV 2) (run 0xF207#16 { State.reset with dt := 0x3C#8 }) = some 0x3C#8 := by decide

/-- K12: the instruction, and the whole frame step. -/
theorem test_ldDtVx :
    look (·.dt) (run 0xF115#16 (regs [(1, 5)])) = some 5#8 ∧
    look (fun t => (t.dt, t.acc)) (step (hostGives 0#16 17 (loaded 0xF115#16 (regs [(1, 5)])))) =
      some (4#8, 4) := by decide

/-- K13 -/
theorem test_ldStVx : look (·.st) (run 0xF118#16 (regs [(1, 0x10)])) = some 0x10#8 := by decide

/-! ### The frame step (95 sections 2.6 to 2.8) -/

/-- A wait for a key that will go to V3. -/
def waiting : State := { State.reset with mode := .awaitingKey 3#4 }

/-- K7 -/
theorem test_waitPoll_completes :
    look (fun t => (t.getV 3, t.pc, t.mode, t.frameDone)) (step (hostGives 0x0080#16 0 waiting)) =
    some (7#8, 0x202#16, .running, true) := by decide

/-- K10 -/
theorem test_waitPoll_ignores_quit :
    look (fun t => (t.mode, t.pc)) (step (hostQuits waiting)) = some (.awaitingKey 3, 0x200#16) := by decide

/-- P6, step 5: 1000 ms since the last governor run, one decrement. -/
theorem test_waitPoll_governor_once :
    look (fun t => (t.dt, t.acc)) (step (hostGives 0x0080#16 1000 { waiting with dt := 5#8 })) =
    some (4#8, 9834) := by decide

/-- G3, first two runs -/
theorem test_governor_one_decrement :
    look (fun t => (t.dt, t.acc)) (governor 40 { State.reset with dt := 5#8 }) = some (4#8, 234) ∧
    look (fun t => (t.dt, t.acc)) (governor 40 { State.reset with dt := 4#8, acc := 234, lastMs := 40 }) =
      some (3#8, 68) := by decide

/-- G4's first two runs, G5 -/
theorem test_governor_threshold :
    look (fun t => (t.dt, t.acc)) (governor 16 { State.reset with dt := 5#8 }) = some (5#8, 160) ∧
    look (fun t => (t.dt, t.acc)) (governor 17 { State.reset with dt := 5#8, acc := 160, lastMs := 16 }) =
      some (4#8, 4) ∧
    look (fun t => (t.dt, t.st, t.acc)) (governor 0 { State.reset with acc := 200 }) = some (0#8, 0#8, 34) := by
  decide

/-- G6 -/
theorem test_governor_backwards : governor 9 { State.reset with lastMs := 10 } = .fault .clockBackwards := rfl

/-- R125: a clock below LAST_MS leaves the frame step without a move, even with quit or in a key wait. -/
theorem test_backward_clock :
    step { hostQuits State.reset with lastMs := 1 } = .fault .clockBackwards ∧
    step { hostGives 0#16 0 waiting with lastMs := 1 } = .fault .clockBackwards := ⟨rfl, rfl⟩

/-- R109: the code numbers. -/
theorem test_fault_numbers :
    [FaultCode.fetchRange, .dataRange, .stackOverflow, .stackUnderflow, .keyRange].map FaultCode.number =
      [1, 2, 3, 4, 5] ∧ (Mode.faulted .keyRange 0x10).portCode = some 5 ∧ Mode.running.portCode = none := by decide

/-- E1 -/
theorem test_quit_stops :
    look (fun t => (t.mode, t.pc, t.frameDone)) (step (hostQuits State.reset)) =
    some (.stopped, 0x200#16, false) := by decide

/-- E3 -/
theorem test_step_fault_is_precise :
    look (fun t => (t.mode, t.pc, t.sp, t.frameDone)) (step (loaded 0x2200#16 { State.reset with sp := 15#8 })) =
    some (.faulted .stackOverflow 0x200, 0x200#16, 15#8, false) := by decide

/-- E4 -/
theorem test_step_unknown_word :
    look (fun t => (t.pc, t.frameDone, t.dbgUnknown)) (step (loaded 0x0123#16 State.reset)) =
    some (0x202#16, true, true) := by decide

/-- F16, and F17: an odd PC is fetched like any other. -/
theorem test_fetch_range_and_alignment :
    look (·.mode) (step (hostGives 0#16 0 { State.reset with pc := 0x0FFF#16 })) =
      some (.faulted .fetchRange 0xFFF) ∧
    look (fun t => (t.getV 0, t.pc)) (step (loaded 0x6005#16 { State.reset with pc := 0x201#16 })) =
      some (5#8, 0x203#16) := by decide

/-- M17: the frame step after a store fetches the stored byte. -/
theorem test_store_is_fetched_next :
    look (·.pc) (step (hostGives 0#16 0 { State.reset with
      pc := 0x202#16, mem := Memory.setBytes [] 0x202 [0x12, 0x34] })) = some 0x234#16 := by decide

/-- The host's probe: the word placed at PC is the one the very next step runs (S1, S2). -/
theorem test_withFetchWord :
    look (fun t => (t.getV 0xA, t.pc)) (step (State.reset.withFetchWord 16 0x6A42)) = some (0x42#8, 0x202#16) ∧
    look (·.pc) (step (State.reset.withFetchWord 16 0x1228)) = some 0x228#16 := by decide

/-- R38, R46, R47: the font and the image after reset. -/
theorem test_reset_memory :
    Memory.getBytes (resetMemory { defaultLaunch with rom := [0x12, 0x00] }) 0x1FF 4 = [0, 0x12, 0, 0] ∧
    Memory.getBytes State.reset.mem 0x04F 3 = [0, 0xF0, 0x90] ∧
    Memory.getBytes State.reset.mem 0x09E 3 = [0x80, 0x80, 0] := by decide

/-! ### Witnesses: concrete states and operands that meet the hypotheses of each obligation, at boundary values -/

/-- A core in the mode Faulted. -/
def faultedCore : State := { State.reset with mode := .faulted .keyRange 0x10 }

/-- Fourteen calls outstanding. -/
def deep : State := { State.reset with sp := 14#8 }

/-- The stack full. -/
def full : State := { State.reset with sp := 15#8 }

theorem witness_EncodedInstructionDecodesToItself :
    (Instr.sneQ 0xF 0xF 0x1).wf = true ∧ (Instr.sneQ 0 0 0xF).wf = true ∧ (Instr.unknown 0x0FFF#16).wf = true ∧
    (Instr.unknown 0xFFFF#16).wf = true ∧ (Instr.drw 0xF 0xF 0xF).wf = true ∧ (Instr.jp 0xFFF#12).wf = true := by
  decide

theorem witness_DecodePicksTheLargestMatchingMask :
    (quirkRow ∈ opcodeMap ∧ quirkRow.matches 0x9120#16 = true ∧ quirkRow ≠ (decode 0x9120#16).row) ∧
    (unknownRow ∈ opcodeMap ∧ unknownRow.matches 0x00E0#16 = true ∧ unknownRow ≠ (decode 0x00E0#16).row) ∧
    ((⟨0xF0FF, 0xF065⟩ : OpcodeRow) ∈ instructionRows ∧
      OpcodeRow.matches ⟨0xF0FF, 0xF065⟩ 0xFF65#16 = true) := by decide

theorem witness_UnknownWordsAreTheListedFamilies :
    decode 0x00DF#16 = .unknown 0x00DF#16 ∧ isUnknownWord 0x00DF#16 = true ∧ isUnknownWord 0x00E0#16 = false := by
  decide

/-- The last address a word can be fetched from. -/
theorem witness_StepRunsTheDecodedInstruction :
    let s := loaded 0xF055#16 { State.reset with pc := 0xFFE#16 }
    s.mode = .running ∧ s.lastMs ≤ s.nextFrame.nowMs ∧ s.nextFrame.quit = false ∧ s.pc.toNat ≤ 0xFFE ∧
    decode (Memory.get s.mem s.pc.toNat ++ Memory.get s.mem (s.pc.toNat + 1)) = .ldMemVx 0 := by decide

theorem witness_FrameCloseRunsTheGovernorByMode :
    State.reset.mode = .running ∧ (waiting.mode = .awaitingKey 3 ∧ waiting.params.timersDuringKeywait = false) ∧
    ((tickingWait waiting).mode = .awaitingKey 3 ∧ (tickingWait waiting).params.timersDuringKeywait = true) ∧
    faultedCore.mode = .faulted .keyRange 0x10 := by decide

/-- The first address no word can be fetched from. -/
theorem witness_FetchPastMemoryFaults :
    let s := hostGives 0#16 0 { State.reset with pc := 0xFFF#16 }
    s.mode = .running ∧ s.lastMs ≤ s.nextFrame.nowMs ∧ s.nextFrame.quit = false ∧ s.pc.toNat > 0xFFE := by decide

theorem witness_QuitStopsTheCore :
    (hostQuits State.reset).mode = .running ∧
    (hostQuits State.reset).lastMs ≤ (hostQuits State.reset).nextFrame.nowMs ∧
    (hostQuits State.reset).nextFrame.quit = true := by decide

/-- One millisecond back, in Running with quit asserted and in a key wait. -/
theorem witness_BackwardClockHasNoMove :
    let s := { hostQuits State.reset with lastMs := 1 }
    let w := { hostGives 0#16 0 waiting with lastMs := 1 }
    ((s.mode = .running ∨ s.mode.isAwaiting = true) ∧ s.nextFrame.nowMs < s.lastMs) ∧
    ((w.mode = .running ∨ w.mode.isAwaiting = true) ∧ w.nextFrame.nowMs < w.lastMs) := by decide

theorem witness_TerminalModesChangeNothing :
    ((∃ c n, faultedCore.mode = .faulted c n) ∨ faultedCore.mode = .stopped) ∧
    ((∃ c n, (State.reset.setMode .stopped).mode = .faulted c n) ∨ (State.reset.setMode .stopped).mode = .stopped) :=
  ⟨.inl ⟨_, _, rfl⟩, .inr rfl⟩

theorem witness_WaitPollWithAKeyCompletes :
    (hostGives 0x8000#16 0 waiting).mode = .awaitingKey 3 ∧ (hostGives 0x8000#16 0 waiting).nextFrame.keys ≠ 0#16 ∧
    (hostGives 0x0001#16 0 (lowestKey waiting)).nextFrame.keys ≠ 0#16 ∧
    (lowestKey waiting).params.keyPick = .lowest := by decide

theorem witness_WaitPollWithoutAKeyKeepsWaiting :
    ((hostGives 0#16 9 waiting).mode = .awaitingKey 3 ∧ (hostGives 0#16 9 waiting).nextFrame.keys = 0#16 ∧
      waiting.params.timersDuringKeywait = false ∧ waiting.lastMs ≤ (hostGives 0#16 9 waiting).nextFrame.nowMs) ∧
    ((hostGives 0#16 9 (tickingWait waiting)).mode = .awaitingKey 3 ∧
      (hostGives 0#16 9 (tickingWait waiting)).nextFrame.keys = 0#16 ∧
      (tickingWait waiting).params.timersDuringKeywait = true) := by decide

theorem witness_WaitPollIgnoresQuitAndRandomByte :
    let f : FrameIn := { keys := 1#16, nowMs := 5, rand8 := 1#8, quit := true }
    let g : FrameIn := { keys := 1#16, nowMs := 5, rand8 := 2#8, quit := false }
    waiting.mode = .awaitingKey 3 ∧ f.keys = g.keys ∧ f.nowMs = g.nowMs ∧ f ≠ g := by decide

/-- The clock one ms back and not back at all, ACC exactly at the threshold and one unit below it. -/
theorem witness_GovernorRunsExactly :
    (9 < ({ State.reset with lastMs := 10 } : State).lastMs) ∧
    (State.reset.lastMs ≤ 0 ∧ 166 ≤ ({ State.reset with acc := 166 } : State).acc + 10 * (0 - State.reset.lastMs)) ∧
    (({ State.reset with acc := 165 } : State).acc + 10 * (0 - State.reset.lastMs) < 166) := by decide

theorem witness_DecrementsNeverOutrunElapsedTime :
    ∃ t, governorRuns [40, 40, 57] { State.reset with dt := 2#8 } = .next t ∧ t.dt = 0#8 ∧ t.acc = 72 ∧
      State.reset.acc = 0 := ⟨_, rfl, by decide⟩

theorem witness_DelayTimerFallsByAtMostOneAStep :
    ∃ t, step (hostGives 0#16 17 (loaded 0xF118#16 { State.reset with dt := 5#8 })) = .next t ∧
      decode (fetchWord (loaded 0xF118#16 State.reset).mem 0x200) = .ldStVx 1 ∧ t.dt = 4#8 := ⟨_, rfl, by decide⟩

theorem witness_KeyWaitStarvesTheTimers :
    (∃ t, step (hostGives 0#16 900 waiting) = .next t ∧ t.mode = .awaitingKey 3) ∧
    (∃ t, step (hostGives 2#16 900 waiting) = .next t ∧ t.mode = .running) ∧
    waiting.params.timersDuringKeywait = false := ⟨⟨_, rfl, rfl⟩, ⟨_, rfl, rfl⟩, rfl⟩

/-- Each fault of R109 that an instruction raises, and beside it the last operand that raises none. -/
theorem witness_InstructionsFaultExactlyAsListed :
    full.sp.toNat ≤ 15 ∧
    faultCause .ret State.reset = some (.stackUnderflow, 0x200) ∧ faultCause .ret full = none ∧
    faultCause (.call 0x300#12) full = some (.stackOverflow, 0x200) ∧ faultCause (.call 0x300#12) deep = none ∧
    faultCause (.skp 1) (regs [(1, 0x10)]) = some (.keyRange, 0x10) ∧ faultCause (.skp 1) (regs [(1, 0xF)]) = none ∧
    faultCause (.sknp 1) (regs [(1, 0xFF)]) = some (.keyRange, 0xFF) ∧
    faultCause (.ldB 0) (withI State.reset 0xFFE#16) = some (.dataRange, 0x1000) ∧
    faultCause (.ldB 0) (withI State.reset 0xFFD#16) = none ∧
    faultCause (.ldMemVx 0) (withI State.reset 0x1005#16) = some (.dataRange, 0x1005) ∧
    faultCause (.ldMemVx 0) (withI State.reset 0xFFF#16) = none ∧
    faultCause (.ldVxMem 1) (withI State.reset 0xFFF#16) = some (.dataRange, 0x1000) ∧
    faultCause (.drw 0 0 2) (withI State.reset 0xFFF#16) = some (.dataRange, 0x1000) ∧
    faultCause (.drw 0 0 0) (withI State.reset 0xFFFF#16) = none := by decide

theorem witness_FaultsAreTakenPrecisely :
    ∃ t, (loaded 0x00EE#16 State.reset).mode = .running ∧ step (loaded 0x00EE#16 State.reset) = .next t ∧
      t.mode = .faulted .stackUnderflow 0x200 := ⟨_, rfl, rfl, rfl⟩

theorem witness_OnlyFourInstructionsJump :
    (∃ t, exec (.seImm 0 0) State.reset = .next t ∧ t.mode = .running ∧ setsJumped (.seImm 0 0) = false ∧
      isSkip (.seImm 0 0) = true ∧ t.pc = 0x204#16) ∧
    (∃ t, exec .cls State.reset = .next t ∧ t.mode = .running ∧ setsJumped .cls = false ∧ t.pc = 0x202#16) :=
  ⟨⟨_, rfl, by decide⟩, ⟨_, rfl, by decide⟩⟩

theorem witness_StackDisplayAndLatchHaveTheirOnlyWriters :
    ∃ t, exec (.addImm 0 1) State.reset = .next t ∧
      (Instr.addImm 0 1 ≠ .ret ∧ ∀ a, Instr.addImm 0 1 ≠ .call a) ∧
      (Instr.addImm 0 1 ≠ .cls ∧ ∀ x y n, Instr.addImm 0 1 ≠ .drw x y n) :=
  ⟨_, rfl, ⟨nofun, nofun⟩, ⟨nofun, nofun⟩⟩

theorem witness_MemoryIndexAndTimersHaveTheirOnlyWriters :
    ∃ t, exec .cls State.reset = .next t ∧ ((∀ x, Instr.cls ≠ .ldB x) ∧ ∀ x, Instr.cls ≠ .ldMemVx x) ∧
      ((∀ a, Instr.cls ≠ .ldI a) ∧ (∀ x, Instr.cls ≠ .addI x) ∧ (∀ x, Instr.cls ≠ .ldF x) ∧
        (∀ x, Instr.cls ≠ .ldMemVx x) ∧ ∀ x, Instr.cls ≠ .ldVxMem x) ∧
      (∀ x, Instr.cls ≠ .ldDtVx x) ∧ ∀ x, Instr.cls ≠ .ldStVx x :=
  ⟨_, rfl, ⟨nofun, nofun⟩, ⟨nofun, nofun, nofun, nofun, nofun⟩, nofun, nofun⟩

/-- The invariant holds of a state with a call outstanding and a stored byte, and of one that waits. -/
theorem witness_InvariantHoldsAfterEveryStep :
    (∃ t, State.Inv { loaded 0x00EE#16 State.reset with sp := 1#8, stack := State.reset.stack.set 1 0x1000#16 } ∧
      step { loaded 0x00EE#16 State.reset with sp := 1#8, stack := State.reset.stack.set 1 0x1000#16 } = .next t) ∧
    (∃ t, (hostGives 1#16 0 waiting).Inv ∧ step (hostGives 1#16 0 waiting) = .next t) :=
  ⟨⟨_, by unfold State.Inv; decide, rfl⟩, ⟨_, by unfold State.Inv; decide, rfl⟩⟩

theorem witness_InvariantHoldsAtReset : ({ defaultLaunch with pcReset := 0x10FE#16 } : Launch).pcReset.toNat ≤ 0x10FE := by
  decide

theorem witness_ParametersNeverChange :
    ∃ t, step (loaded 0x00E0#16 (refusing State.reset)) = .next t ∧ t.params.unknownPolicy = .refuse :=
  ⟨_, rfl, rfl⟩

theorem witness_StaleLatchIsOverwritten :
    (((loaded 0xE09E#16 State.reset).mode = .running ∧ (loaded 0xE09E#16 State.reset).nextFrame.quit = false) ∨
      (loaded 0xE09E#16 State.reset).mode.isAwaiting = true) ∧
    ((waiting.mode = .running ∧ waiting.nextFrame.quit = false) ∨ waiting.mode.isAwaiting = true) :=
  ⟨.inl ⟨rfl, rfl⟩, .inr rfl⟩

/-- An address in each range of the reset map, at its ends. -/
theorem witness_ResetLeavesTheListedValues :
    let m := resetMemory { defaultLaunch with rom := [0x12, 0x34] }
    Memory.get m 0x04F = 0 ∧ Memory.get m 0x050 = 0xF0 ∧ Memory.get m 0x09F = 0x80 ∧ Memory.get m 0x0A0 = 0 ∧
    Memory.get m 0x1FF = 0 ∧ Memory.get m 0x200 = 0x12 ∧ Memory.get m 0x201 = 0x34 ∧ Memory.get m 0x202 = 0 ∧
    Memory.get m 0xFFF = 0 := by decide

/-- Stack pointers 1, 15, 0 and 16. -/
theorem witness_ReturnPopsTheStack :
    ((1 : Fin 16).val = ({ State.reset with sp := 1#8 } : State).sp.toNat ∧
      0 < ({ State.reset with sp := 1#8 } : State).sp.toNat) ∧
    ((15 : Fin 16).val = full.sp.toNat ∧ 0 < full.sp.toNat) ∧ State.reset.sp.toNat = 0 ∧
    15 < ({ State.reset with sp := 16#8 } : State).sp.toNat := by decide

/-- Stack pointers 0, 14, 15 and 255; a slot of 13 bits and the last CALL that can be fetched. -/
theorem witness_CallPushesTheReturnAddress :
    (1 : Fin 16).val = State.reset.sp.toNat + 1 ∧ (15 : Fin 16).val = deep.sp.toNat + 1 ∧ 15 ≤ full.sp.toNat ∧
    15 ≤ ({ State.reset with sp := 0xFF#8 } : State).sp.toNat ∧
    (13 ≤ (narrowStack 13 State.reset).params.stackSlotWidth ∧
      ({ State.reset with pc := 0xFFE#16 } : State).pc.toNat ≤ 0xFFE) := by decide

theorem witness_ReturnResumesAfterTheCall :
    deep.sp.toNat < 15 ∧ (deep.pc + 2#16).toNat < 2 ^ deep.params.stackSlotWidth ∧
    ∃ t, exec (.call 0x300#12) deep = .next t ∧ (regs [(0, 1)]).sp = State.reset.sp ∧
      ({ regs [(0, 1)] with sp := t.sp, stack := t.stack } : State).stack = t.stack := ⟨by decide, by decide, _, rfl, rfl, rfl⟩

theorem witness_QuirkWordSkipsAndReports :
    State.reset.params.unknownPolicy = .noop ∧ (refusing State.reset).params.unknownPolicy = .refuse := by decide

theorem witness_UnknownWordOnlyAdvances :
    isUnknownWord 0x0123#16 = true ∧ State.reset.params.unknownPolicy = .noop ∧
    (refusing State.reset).params.unknownPolicy = .refuse := by decide

/-- A state with LOGIC_CLEARS_VF = false. -/
def keepingVf (s : State) : State := { s with params := { s.params with logicClearsVf := false } }

/-- The two values of LOGIC_CLEARS_VF, and the four cases of a flag table. -/
theorem witness_OrFollowsItsTable :
    (State.reset.params.logicClearsVf = true ∧ (keepingVf State.reset).params.logicClearsVf = false) ∧
    ((0xE : Nibble) ≠ vf ∧ (0x0 : Nibble) ≠ vf ∧ (0xF : Nibble) = vf) ∧
    (regs [(1, 0x0F), (2, 0xF0)]).getV 1 = 0x0F#8 ∧ (regs [(1, 0x0F), (2, 0xF0)]).getV 2 = 0xF0#8 := by decide

theorem witness_AndFollowsItsTable :
    (State.reset.params.logicClearsVf = true ∧ (keepingVf State.reset).params.logicClearsVf = false) ∧
    (regs [(1, 0x3C), (0xF, 0xFF)]).getV 1 = 0x3C#8 ∧ (regs [(1, 0x3C), (0xF, 0xFF)]).getV 0xF = 0xFF#8 := by decide

theorem witness_XorFollowsItsTable :
    (State.reset.params.logicClearsVf = true ∧ (keepingVf State.reset).params.logicClearsVf = false) ∧
    (regs [(1, 0x5A)]).getV 1 = 0x5A#8 ∧ (regs [(1, 0x5A)]).getV 0xF = 0#8 := by decide

/-- The largest sum without a carry and the smallest with one (R79). -/
theorem witness_AddFollowsItsTable :
    ((regs [(1, 0xFF), (2, 0)]).getV 1 = 0xFF#8 ∧ (regs [(1, 0xFF), (2, 0)]).getV 2 = 0#8 ∧
      (0x00#8 : Byte) = if (0xFF#8 : Byte).toNat + (0#8 : Byte).toNat > 255 then 0x01#8 else 0x00#8) ∧
    ((regs [(1, 0xFF), (2, 1)]).getV 2 = 1#8 ∧
      (0x01#8 : Byte) = if (0xFF#8 : Byte).toNat + (1#8 : Byte).toNat > 255 then 0x01#8 else 0x00#8) := by decide

/-- Equal operands and operands that differ by one (R80, R82). -/
theorem witness_SubtractionsFollowTheirTables :
    ((regs [(1, 5), (2, 5)]).getV 1 = 5#8 ∧ (regs [(1, 5), (2, 5)]).getV 2 = 5#8 ∧
      (0x00#8 : Byte) = if (5#8 : Byte).toNat > (5#8 : Byte).toNat then 0x01#8 else 0x00#8) ∧
    (0x01#8 : Byte) = (if (6#8 : Byte).toNat > (5#8 : Byte).toNat then 0x01#8 else 0x00#8) ∧
    (0x00#8 : Byte) = (if (5#8 : Byte).toNat > (6#8 : Byte).toNat then 0x01#8 else 0x00#8) := by decide

/-- VY = 0x81, both end bits set (R81, R83). -/
theorem witness_ShiftsFollowTheirTables :
    (regs [(2, 0x81)]).getV 2 = 0x81#8 ∧ (1#8 : Byte).toNat = (0x81#8 : Byte).toNat % 2 ∧
    (1#8 : Byte).toNat = (0x81#8 : Byte).toNat / 128 ∧ (0x40#8 : Byte).toNat = (0x81#8 : Byte).toNat / 2 ∧
    (0x02#8 : Byte).toNat = 2 * (0x81#8 : Byte).toNat % 256 := by decide

theorem witness_VfOrderShowsOnlyThroughVf :
    (0xE : Nibble) ≠ vf ∧ (0 : Nibble) ≠ vf ∧ Instr.orReg 0xE 0 ∈ flagProducers 0xE 0 ∧
    Instr.shl 0xE 0 ∈ flagProducers 0xE 0 := by decide

theorem witness_RandomByteIsMasked : ({ State.reset with rand8 := 0xA7#8 } : State).rand8 = 0xA7#8 := rfl

/-- I = 0xFFD is the last base that fits, 0xFFE the first that does not. -/
theorem witness_BcdStoresThreeDigits :
    Memory.wf (withI State.reset 0xFFD#16).mem = true ∧ indexBase (withI State.reset 0xFFD#16) + 2 ≤ 0xFFF ∧
    indexBase (withI State.reset 0xFFE#16) + 2 > 0xFFF := by decide

/-- I + X at 0xFFF and at 0x1000. -/
theorem witness_BlockStoreWritesV0ToVx :
    Memory.wf (at300 State.reset [1, 2, 3]).mem = true ∧
    indexBase (withI State.reset 0xFF0#16) + (0xF : Nibble).toNat ≤ 0xFFF ∧
    indexBase (withI State.reset 0xFF1#16) + (0xF : Nibble).toNat > 0xFFF ∧
    ((0 : Nibble).toNat ≤ (0xF : Nibble).toNat ∧ (0xF : Nibble).toNat ≤ (0xF : Nibble).toNat) := by decide

theorem witness_BlockLoadReadsV0ToVx :
    indexBase (withI State.reset 0xFFF#16) + (0 : Nibble).toNat ≤ 0xFFF ∧
    indexBase (withI State.reset 0x1000#16) + (0 : Nibble).toNat > 0xFFF := by decide

theorem witness_BlockLoadInvertsBlockStore :
    Memory.wf (withI State.reset 0xFF0#16).mem = true ∧
    indexBase (withI State.reset 0xFF0#16) + (0xF : Nibble).toNat ≤ 0xFFF := by decide

theorem witness_FetchSeesStoredBytes :
    ∃ t, Memory.wf State.reset.mem = true ∧ indexBase (withI State.reset 0xFFE#16) + (1 : Nibble).toNat ≤ 0xFFF ∧
      exec (.ldMemVx 1) (withI (regs [(0, 0x12), (1, 0x34)]) 0xFFE#16) = .next t ∧
      (0 : Nibble).toNat + 1 ≤ (1 : Nibble).toNat ∧ fetchWord t.mem 0xFFE = 0x1234#16 :=
  ⟨_, by decide, by decide, rfl, by decide, by decide⟩

/-- No row at any I, the last base that fits and the first that does not; a pixel under a 1 bit that is on. -/
theorem witness_DrawXorsTheSprite :
    (coordinate (regs [(1, 67)]) 1 % 64 = 3 ∧ coordinate (regs [(0xF, 10)]) 0xF = 0) ∧
    ((0 : Nibble).toNat = 0 ∨ indexBase (withI State.reset 0xFFFF#16) + (0 : Nibble).toNat ≤ 0x1000) ∧
    ((2 : Nibble).toNat = 0 ∨ indexBase (withI State.reset 0xFFE#16) + (2 : Nibble).toNat ≤ 0x1000) ∧
    (0 < (2 : Nibble).toNat ∧ indexBase (withI State.reset 0xFFF#16) + (2 : Nibble).toNat > 0x1000) ∧
    (Framebuffer.pixel (Framebuffer.setPixel State.reset.fb 7 0 true) 7 0 = true ∧
      spriteBit (at300 State.reset [1]).mem 0x300 1 0 0 7 0 = true) := by decide

theorem witness_DrawingTwiceRestoresTheScreen :
    (1 : Nibble) ≠ vf ∧ (2 : Nibble) ≠ vf ∧
    ((1 : Nibble).toNat = 0 ∨ indexBase (at300 State.reset [0xFF]) + (1 : Nibble).toNat ≤ 0x1000) ∧
    (Framebuffer.pixel State.reset.fb 7 0 = false ∧
      spriteBit (at300 State.reset [0xFF]).mem 0x300 1 0 0 7 0 = true) := by decide

/-- VX at 15 and at 16. -/
theorem witness_KeySkipsReadTheLatch :
    ((regs [(1, 0xF)]).getV 1).toNat = 15 ∧ 15 ≤ 15 ∧ ((regs [(1, 0x10)]).getV 1).toNat = 16 ∧ 16 > 15 := by decide

theorem witness_KeyWaitStoresAPressedKey :
    State.reset.latch = 0#16 ∧ ({ State.reset with latch := 0x8000#16 } : State).latch ≠ 0#16 ∧
    (lowestKey State.reset).params.keyPick = .lowest := by decide

/-! ### The host's probe: every row's instruction is run as the first one after reset -/

/-- Whether the word of the row is read as the instruction it stands for, and the very next step runs it. -/
def probes (i : Instr) : Bool :=
  decodeTableWord 16 (encode i).toNat == some i &&
  match step (State.reset.withFetchWord 16 (encode i).toNat) with
  | .next _ => true
  | .fault _ => false
  | .refused _ => false

/-- The rows CLS to AND. -/
def rowsA : List Instr :=
  [.cls, .ret, .jp 0x300#12, .call 0x300#12, .seImm 1#4 2#8, .sneImm 1#4 2#8, .seReg 1#4 2#4, .ldImm 1#4 2#8,
   .addImm 1#4 2#8, .ldReg 1#4 2#4, .orReg 1#4 2#4, .andReg 1#4 2#4]

/-- The rows XOR to DRW. -/
def rowsB : List Instr :=
  [.xorReg 1#4 2#4, .addReg 1#4 2#4, .sub 1#4 2#4, .shr 1#4 2#4, .subn 1#4 2#4, .shl 1#4 2#4, .sneReg 1#4 2#4,
   .sneQ 1#4 2#4 3#4, .ldI 0x300#12, .jpV0 0x300#12, .rnd 1#4 2#8, .drw 1#4 2#4 3#4]

/-- The rows SKP to the unknown word. -/
def rowsC : List Instr :=
  [.skp 1#4, .sknp 1#4, .ldVxDt 1#4, .ldVxK 1#4, .ldDtVx 1#4, .ldStVx 1#4, .addI 1#4, .ldF 1#4, .ldB 1#4,
   .ldMemVx 1#4, .ldVxMem 1#4, .unknown 0x0123#16]

theorem test_probe_rows_cls_to_and : rowsA.all probes = true := by decide

theorem test_probe_rows_xor_to_drw : rowsB.all probes = true := by decide

theorem test_probe_rows_skp_to_unknown : rowsC.all probes = true := by decide

end Sys2Proof.Tests
end

section
/-!
SUPPORT and PROOF. The parameters of R6 along a step: each operation of an instruction and of a frame keeps them, so
every instruction, the close of a frame and a wait poll do, and with them every step (log 1).
-/

namespace Sys2Proof.Machine

/-! ### The operations that Laws/State.lean has no parameter lemma for -/

@[simp] theorem State.setRegsFrom_params (s : State) (k : Nat) (xs : List Byte) :
    (s.setRegsFrom k xs).params = s.params := by
  rw [State.setRegsFrom_eq]

@[simp] theorem writeFlagged_params (f r : Byte → Byte → Byte) (x y : Nibble) (s : State) :
    (writeFlagged f r x y s).params = s.params := by
  rw [writeFlagged_eq]

@[simp] theorem writeLogic_params (r : Byte → Byte → Byte) (x y : Nibble) (s : State) :
    (writeLogic r x y s).params = s.params := by
  rw [writeLogic_eq]

@[simp] theorem State.governed_params (s : State) (n : Nat) : (s.governed n).params = s.params := by
  rw [State.governed_eq]

/-! ### Instructions -/

@[simp] theorem completed_params (i : Instr) (s : State) : (completed i s).params = s.params := by
  cases i <;> simp [completed]

/-- An instruction that leaves the core with a next state keeps the parameters, whether it completes, faults or
waits. -/
theorem exec_next_params {i : Instr} {s t : State} (h : exec i s = .next t) : t.params = s.params := by
  obtain ⟨-, rfl⟩ | ⟨c, n, rfl⟩ | ⟨x, -, rfl⟩ := exec_next h
  · exact completed_params i s
  · exact State.takeFault_params s c n
  · exact State.setMode_params s _

/-! ### Frames -/

theorem closeFrame_next_params {n : Nat} {s t : State} (h : closeFrame n s = .next t) : t.params = s.params := by
  obtain ⟨-, -, rfl⟩ | ⟨-, -, rfl⟩ | ⟨-, rfl⟩ := closeFrame_next h
  · exact State.governed_params _ n
  · exact State.governed_params s n
  · rfl

/-- A wait poll closes the frame in one of two states: the pressed key stored and the deferred advance made, or, with
no key, the state after the latch refresh, still waiting (R30). -/
theorem waitPoll_cases (f : FrameIn) (x : Nibble) (s : State) :
    (∃ k, (s.takeFrame.refreshLatch f).keyPick? = some k ∧
      waitPoll f x s = closeFrame f.nowMs
        (((s.takeFrame.refreshLatch f).setV x (BitVec.ofNat 8 k)).advance.setMode .running)) ∨
    ((s.takeFrame.refreshLatch f).keyPick? = none ∧
      waitPoll f x s = closeFrame f.nowMs (s.takeFrame.refreshLatch f)) := by
  cases hk : (s.takeFrame.refreshLatch f).keyPick? with
  | some k => exact .inl ⟨k, rfl, by simp only [waitPoll, hk]⟩
  | none => exact .inr ⟨rfl, by simp only [waitPoll, hk]⟩

theorem waitPoll_next_params {f : FrameIn} {x : Nibble} {s t : State} (h : waitPoll f x s = .next t) :
    t.params = s.params := by
  obtain ⟨k, -, hw⟩ | ⟨-, hw⟩ := waitPoll_cases f x s
  · simpa using closeFrame_next_params (hw.symm.trans h)
  · simpa using closeFrame_next_params (hw.symm.trans h)

/-- Settles O26: each way a step can end (quit, a fetch fault, an executed instruction and the close of its frame, a
wait poll, a terminal mode) keeps the parameters. -/
theorem parametersNeverChange : Obligations.ParametersNeverChange := by
  intro s t h
  obtain ⟨-, -, -, rfl⟩ | ⟨-, -, -, -, rfl⟩ | ⟨-, -, -, -, u, hexec, hclose⟩ | ⟨x, -, -, hpoll⟩ | ⟨-, rfl⟩ :=
    step_next h
  · simp
  · simp
  · calc t.params = u.params := closeFrame_next_params hclose
      _ = (s.openFrame s.nextFrame).params := exec_next_params hexec
      _ = s.params := State.openFrame_params s _
  · exact waitPoll_next_params hpoll
  · rfl

end Sys2Proof.Machine
end

section
/-!
SUPPORT and PROOF. What a completed instruction leaves unchanged, field by field, and where it leaves PC; with them the
statements about the only writers of each part of the state (spec/10_state.md R19 to R27, R33, R34).
-/

namespace Sys2Proof.Machine

/-! ### The operations on the register file change nothing else -/

section
variable (s : State) (k : Nat) (xs : List Byte)
@[simp] theorem State.setRegsFrom_i : (s.setRegsFrom k xs).i = s.i := by rw [State.setRegsFrom_eq]
@[simp] theorem State.setRegsFrom_pc : (s.setRegsFrom k xs).pc = s.pc := by rw [State.setRegsFrom_eq]
@[simp] theorem State.setRegsFrom_sp : (s.setRegsFrom k xs).sp = s.sp := by rw [State.setRegsFrom_eq]
@[simp] theorem State.setRegsFrom_stack : (s.setRegsFrom k xs).stack = s.stack := by rw [State.setRegsFrom_eq]
@[simp] theorem State.setRegsFrom_dt : (s.setRegsFrom k xs).dt = s.dt := by rw [State.setRegsFrom_eq]
@[simp] theorem State.setRegsFrom_st : (s.setRegsFrom k xs).st = s.st := by rw [State.setRegsFrom_eq]
@[simp] theorem State.setRegsFrom_mem : (s.setRegsFrom k xs).mem = s.mem := by rw [State.setRegsFrom_eq]
@[simp] theorem State.setRegsFrom_fb : (s.setRegsFrom k xs).fb = s.fb := by rw [State.setRegsFrom_eq]
@[simp] theorem State.setRegsFrom_latch : (s.setRegsFrom k xs).latch = s.latch := by rw [State.setRegsFrom_eq]
@[simp] theorem State.setRegsFrom_acc : (s.setRegsFrom k xs).acc = s.acc := by rw [State.setRegsFrom_eq]
@[simp] theorem State.setRegsFrom_lastMs : (s.setRegsFrom k xs).lastMs = s.lastMs := by rw [State.setRegsFrom_eq]
@[simp] theorem State.setRegsFrom_mode : (s.setRegsFrom k xs).mode = s.mode := by rw [State.setRegsFrom_eq]
end

section
variable (f r : Byte → Byte → Byte) (x y : Nibble) (s : State)
@[simp] theorem writeFlagged_i : (writeFlagged f r x y s).i = s.i := by rw [writeFlagged_eq]
@[simp] theorem writeFlagged_pc : (writeFlagged f r x y s).pc = s.pc := by rw [writeFlagged_eq]
@[simp] theorem writeFlagged_sp : (writeFlagged f r x y s).sp = s.sp := by rw [writeFlagged_eq]
@[simp] theorem writeFlagged_stack : (writeFlagged f r x y s).stack = s.stack := by rw [writeFlagged_eq]
@[simp] theorem writeFlagged_dt : (writeFlagged f r x y s).dt = s.dt := by rw [writeFlagged_eq]
@[simp] theorem writeFlagged_st : (writeFlagged f r x y s).st = s.st := by rw [writeFlagged_eq]
@[simp] theorem writeFlagged_mem : (writeFlagged f r x y s).mem = s.mem := by rw [writeFlagged_eq]
@[simp] theorem writeFlagged_fb : (writeFlagged f r x y s).fb = s.fb := by rw [writeFlagged_eq]
@[simp] theorem writeFlagged_latch : (writeFlagged f r x y s).latch = s.latch := by rw [writeFlagged_eq]
@[simp] theorem writeFlagged_acc : (writeFlagged f r x y s).acc = s.acc := by rw [writeFlagged_eq]
@[simp] theorem writeFlagged_lastMs : (writeFlagged f r x y s).lastMs = s.lastMs := by rw [writeFlagged_eq]
@[simp] theorem writeFlagged_mode : (writeFlagged f r x y s).mode = s.mode := by rw [writeFlagged_eq]
end

section
variable (r : Byte → Byte → Byte) (x y : Nibble) (s : State)
@[simp] theorem writeLogic_i : (writeLogic r x y s).i = s.i := by rw [writeLogic_eq]
@[simp] theorem writeLogic_pc : (writeLogic r x y s).pc = s.pc := by rw [writeLogic_eq]
@[simp] theorem writeLogic_sp : (writeLogic r x y s).sp = s.sp := by rw [writeLogic_eq]
@[simp] theorem writeLogic_stack : (writeLogic r x y s).stack = s.stack := by rw [writeLogic_eq]
@[simp] theorem writeLogic_dt : (writeLogic r x y s).dt = s.dt := by rw [writeLogic_eq]
@[simp] theorem writeLogic_st : (writeLogic r x y s).st = s.st := by rw [writeLogic_eq]
@[simp] theorem writeLogic_mem : (writeLogic r x y s).mem = s.mem := by rw [writeLogic_eq]
@[simp] theorem writeLogic_fb : (writeLogic r x y s).fb = s.fb := by rw [writeLogic_eq]
@[simp] theorem writeLogic_latch : (writeLogic r x y s).latch = s.latch := by rw [writeLogic_eq]
@[simp] theorem writeLogic_acc : (writeLogic r x y s).acc = s.acc := by rw [writeLogic_eq]
@[simp] theorem writeLogic_lastMs : (writeLogic r x y s).lastMs = s.lastMs := by rw [writeLogic_eq]
@[simp] theorem writeLogic_mode : (writeLogic r x y s).mode = s.mode := by rw [writeLogic_eq]
end

/-! ### What a completed instruction leaves unchanged -/

section
variable {i : Instr} (s : State)

@[simp] theorem completed_latch : (completed i s).latch = s.latch := by cases i <;> simp [completed]
@[simp] theorem completed_acc : (completed i s).acc = s.acc := by cases i <;> simp [completed]
@[simp] theorem completed_lastMs : (completed i s).lastMs = s.lastMs := by cases i <;> simp [completed]
@[simp] theorem completed_mode : (completed i s).mode = s.mode := by cases i <;> simp [completed]

theorem completed_sp (hret : i ≠ .ret) (hcall : ∀ a, i ≠ .call a) : (completed i s).sp = s.sp := by
  cases i
  case ret => exact absurd rfl hret
  case call a => exact absurd rfl (hcall a)
  all_goals simp [completed]

theorem completed_stack (hcall : ∀ a, i ≠ .call a) : (completed i s).stack = s.stack := by
  cases i
  case call a => exact absurd rfl (hcall a)
  all_goals simp [completed]

theorem completed_fb (hcls : i ≠ .cls) (hdrw : ∀ x y n, i ≠ .drw x y n) : (completed i s).fb = s.fb := by
  cases i
  case cls => exact absurd rfl hcls
  case drw x y n => exact absurd rfl (hdrw x y n)
  all_goals simp [completed]

theorem completed_mem (hb : ∀ x, i ≠ .ldB x) (hm : ∀ x, i ≠ .ldMemVx x) : (completed i s).mem = s.mem := by
  cases i
  case ldB x => exact absurd rfl (hb x)
  case ldMemVx x => exact absurd rfl (hm x)
  all_goals simp [completed]

theorem completed_i (hldI : ∀ a, i ≠ .ldI a) (hadd : ∀ x, i ≠ .addI x) (hf : ∀ x, i ≠ .ldF x)
    (hst : ∀ x, i ≠ .ldMemVx x) (hld : ∀ x, i ≠ .ldVxMem x) : (completed i s).i = s.i := by
  cases i
  case ldI a => exact absurd rfl (hldI a)
  case addI x => exact absurd rfl (hadd x)
  case ldF x => exact absurd rfl (hf x)
  case ldMemVx x => exact absurd rfl (hst x)
  case ldVxMem x => exact absurd rfl (hld x)
  all_goals simp [completed]

theorem completed_dt (h : ∀ x, i ≠ .ldDtVx x) : (completed i s).dt = s.dt := by
  cases i
  case ldDtVx x => exact absurd rfl (h x)
  all_goals simp [completed]

theorem completed_st (h : ∀ x, i ≠ .ldStVx x) : (completed i s).st = s.st := by
  cases i
  case ldStVx x => exact absurd rfl (h x)
  all_goals simp [completed]

/-! ### Where a completed instruction leaves PC (R33, R34) -/

/-- A skip moves PC by 4 or by 2. -/
theorem completed_pc_skip (h : isSkip i = true) :
    ∃ taken : Bool, (completed i s).pc = s.pc + if taken then 4#16 else 2#16 := by
  cases i
  case seImm | sneImm | seReg | sneReg | sneQ | skp | sknp => exact ⟨_, rfl⟩
  all_goals cases h

/-- An instruction that neither jumps nor skips makes the default advance. -/
theorem completed_pc_plain (hjump : setsJumped i = false) (hskip : isSkip i = false) :
    (completed i s).pc = s.pc + 2#16 := by
  cases i
  case ret | jp | call | jpV0 => cases hjump
  case seImm | sneImm | seReg | sneReg | sneQ | skp | sknp => cases hskip
  all_goals simp [completed]

/-- Without a jump PC moves by 2, or by 4 in a skip. -/
theorem completed_pc (hjump : setsJumped i = false) :
    (completed i s).pc = s.pc + 2#16 ∨ (isSkip i = true ∧ (completed i s).pc = s.pc + 4#16) := by
  cases hskip : isSkip i with
  | false => exact .inl (completed_pc_plain s hjump hskip)
  | true =>
    obtain ⟨taken, hpc⟩ := completed_pc_skip s hskip
    cases taken with
    | false => exact .inl hpc
    | true => exact .inr ⟨rfl, hpc⟩

end

/-! ### From completed instructions to all of them: a fault and a wait change MODE only -/

/-- What MODE does not enter and the completed instruction keeps, every instruction with a next state keeps. -/
theorem exec_next_keeps {α : Type} (p : State → α) (hmode : ∀ s m, p (s.setMode m) = p s) {i : Instr} {s t : State}
    (h : exec i s = .next t) (hp : p (completed i s) = p s) : p t = p s := by
  obtain ⟨-, rfl⟩ | ⟨c, n, rfl⟩ | ⟨x, -, rfl⟩ := exec_next h
  · exact hp
  · exact hmode s _
  · exact hmode s _

/-- Settles O21, field by field from the frame lemmas of a completed instruction. -/
theorem stackDisplayAndLatchHaveTheirOnlyWriters : Obligations.StackDisplayAndLatchHaveTheirOnlyWriters := by
  intro i s t h
  refine ⟨fun ⟨hret, hcall⟩ => ⟨?sp, ?stack⟩, fun ⟨hcls, hdrw⟩ => ?fb, ?latch, ?acc, ?lastMs⟩
  case sp => exact exec_next_keeps (·.sp) State.setMode_sp h (completed_sp s hret hcall)
  case stack => exact exec_next_keeps (·.stack) State.setMode_stack h (completed_stack s hcall)
  case fb => exact exec_next_keeps (·.fb) State.setMode_fb h (completed_fb s hcls hdrw)
  case latch => exact exec_next_keeps (·.latch) State.setMode_latch h (completed_latch s)
  case acc => exact exec_next_keeps (·.acc) State.setMode_acc h (completed_acc s)
  case lastMs => exact exec_next_keeps (·.lastMs) State.setMode_lastMs h (completed_lastMs s)

/-- Settles O22, field by field from the frame lemmas of a completed instruction. -/
theorem memoryIndexAndTimersHaveTheirOnlyWriters : Obligations.MemoryIndexAndTimersHaveTheirOnlyWriters := by
  intro i s t h
  refine ⟨fun ⟨hb, hm⟩ => ?mem, fun ⟨hldI, hadd, hf, hst, hld⟩ => ?i, fun hdt => ?dt, fun hst => ?st⟩
  case mem => exact exec_next_keeps (·.mem) State.setMode_mem h (completed_mem s hb hm)
  case i => exact exec_next_keeps (·.i) State.setMode_i h (completed_i s hldI hadd hf hst hld)
  case dt => exact exec_next_keeps (·.dt) State.setMode_dt h (completed_dt s hdt)
  case st => exact exec_next_keeps (·.st) State.setMode_st h (completed_st s hst)

/-- Settles O20: an instruction that leaves the core running has completed, and then its PC is known. -/
theorem onlyFourInstructionsJump : Obligations.OnlyFourInstructionsJump := by
  intro i s t h hrun hjump
  obtain ⟨-, rfl⟩ | ⟨c, n, rfl⟩ | ⟨x, -, rfl⟩ := exec_next h
  · exact completed_pc s hjump
  · cases hrun
  · cases hrun

end Sys2Proof.Machine
end

section
/-!
SUPPORT and PROOF. The frame step as equations: its close by mode, a frame in Running with and without quit, a wait
poll with and without a key, and a terminal mode (spec/10_state.md R29 to R31); with them the statements about each.
-/

namespace Sys2Proof.Machine

/-! ### The close of a frame, by mode (R29, R30, R110) -/

theorem closeFrame_running (n : Nat) {s : State} (h : s.mode = .running) :
    closeFrame n s = governor n { s with frameDone := true } := by simp only [closeFrame, h]

theorem closeFrame_awaiting_ticking (n : Nat) {s : State} {x : Nibble} (h : s.mode = .awaitingKey x)
    (hp : s.params.timersDuringKeywait = true) : closeFrame n s = governor n s := by
  simp only [closeFrame, h, hp, if_true]

theorem closeFrame_awaiting_frozen (n : Nat) {s : State} {x : Nibble} (h : s.mode = .awaitingKey x)
    (hp : s.params.timersDuringKeywait = false) : closeFrame n s = .next s := by
  simp [closeFrame, h, hp]

theorem closeFrame_faulted (n : Nat) {s : State} {c : FaultCode} {info : Nat} (h : s.mode = .faulted c info) :
    closeFrame n s = .next s := by simp only [closeFrame, h]

theorem closeFrame_stopped (n : Nat) {s : State} (h : s.mode = .stopped) : closeFrame n s = .next s := by
  simp only [closeFrame, h]

/-- Settles O7, clause by clause from the equation of the mode. -/
theorem frameCloseRunsTheGovernorByMode : Obligations.FrameCloseRunsTheGovernorByMode := fun now _ =>
  ⟨closeFrame_running now, fun _ => closeFrame_awaiting_ticking now, fun _ => closeFrame_awaiting_frozen now,
    fun _ _ => closeFrame_faulted now⟩

/-! ### A frame in Running (R29) -/

/-- What a frame step makes of what its cycle answers: a next state is closed, a stop is the step's. -/
def closeAnswer (n : Nat) : Result → Result
  | .next t => closeFrame n t
  | .fault r => .fault r
  | .refused r => .refused r

theorem runningFrame_quit {f : FrameIn} (s : State) (h : f.quit = true) :
    runningFrame f s = .next (s.takeFrame.setMode .stopped) := by simp only [runningFrame, h, if_true]

theorem runningFrame_cycle {f : FrameIn} (s : State) (h : f.quit = false) :
    runningFrame f s = closeAnswer f.nowMs (cycle (s.openFrame f)) := by
  simp only [runningFrame, h, Bool.false_eq_true, if_false]; rfl

/-- Without quit and with a clock that has not gone backwards, a step in Running is the cycle's answer closed. -/
theorem step_running_cycle {s : State} (hrun : s.mode = .running) (hclock : s.lastMs ≤ s.nextFrame.nowMs)
    (hquit : s.nextFrame.quit = false) :
    step s = closeAnswer s.nextFrame.nowMs (cycle (s.openFrame s.nextFrame)) := by
  rw [step_running hrun, withClock_ok _ hclock, runningFrame_cycle s hquit]

/-- Settles O6: the cycle is exec of the word at PC. -/
theorem stepRunsTheDecodedInstruction : Obligations.StepRunsTheDecodedInstruction := by
  rintro s i hrun hclock hquit hpc rfl
  rw [step_running_cycle hrun hclock hquit, cycle_exec (s := s.openFrame s.nextFrame) hpc]
  rfl

/-- Settles O8: the cycle faults, and in Faulted the close changes nothing. -/
theorem fetchPastMemoryFaults : Obligations.FetchPastMemoryFaults := by
  intro s hrun hclock hquit hpc
  rw [step_running_cycle hrun hclock hquit, cycle_fetchFault (s := s.openFrame s.nextFrame) hpc]
  exact closeFrame_faulted s.nextFrame.nowMs (State.takeFault_mode (s.openFrame s.nextFrame) .fetchRange s.pc.toNat)

/-- Settles O9: under quit the step is the frame taken and MODE set to Stopped. -/
theorem quitStopsTheCore : Obligations.QuitStopsTheCore := by
  intro s hrun hclock hquit
  refine ⟨s.takeFrame.setMode .stopped, ?step, by simp⟩
  case step => rw [step_running hrun, withClock_ok _ hclock, runningFrame_quit s hquit]

/-! ### A terminal mode (R31) -/

/-- Settles O10: in these two modes a frame step answers the state it was given. -/
theorem terminalModesChangeNothing : Obligations.TerminalModesChangeNothing := by
  rintro s (⟨c, n, hm⟩ | hm)
  · simp only [step, frameStep, hm]
  · simp only [step, frameStep, hm]

/-! ### A wait poll (R30) -/

/-- The state in which a pressed key k completes the waiting FX0A: Vx is k, the deferred advance is made. -/
def pollCompleted (f : FrameIn) (x : Nibble) (k : Nat) (s : State) : State :=
  ((s.takeFrame.refreshLatch f).setV x (BitVec.ofNat 8 k)).advance.setMode .running

theorem waitPoll_key {f : FrameIn} (x : Nibble) {s : State} {k : Nat}
    (h : (s.takeFrame.refreshLatch f).keyPick? = some k) :
    waitPoll f x s = governor f.nowMs { pollCompleted f x k s with frameDone := true } := by
  simp only [waitPoll, h]
  exact closeFrame_running _ (State.setMode_mode _ _)

theorem waitPoll_noPick {f : FrameIn} (x : Nibble) {s : State} (h : (s.takeFrame.refreshLatch f).keyPick? = none) :
    waitPoll f x s = closeFrame f.nowMs (s.takeFrame.refreshLatch f) := by simp only [waitPoll, h]

/-- A poll depends on the clock and on the state after the latch refresh alone. -/
theorem waitPoll_congr {f g : FrameIn} (x : Nibble) {s t : State} (hnow : f.nowMs = g.nowMs)
    (h : s.takeFrame.refreshLatch f = t.takeFrame.refreshLatch g) : waitPoll f x s = waitPoll g x t := by
  simp only [waitPoll, h, hnow]

/-- Where a frame step comes to one governor run, its clock test is the governor's own. -/
theorem withClock_governor {s u : State} {k : FrameIn → Result}
    (hk : k s.nextFrame = governor s.nextFrame.nowMs u) (hu : u.lastMs = s.lastMs) :
    withClock s k = governor s.nextFrame.nowMs u := by
  by_cases hc : s.lastMs ≤ s.nextFrame.nowMs
  · rw [withClock_ok k hc, hk]
  · rw [withClock_back k (by omega), governor_back (by omega)]

/-- A frame step depends on LAST_MS, on the clock, and on what it does once the clock is tested. -/
theorem withClock_congr {s t : State} {k k' : FrameIn → Result} (hlast : s.lastMs = t.lastMs)
    (hnow : s.nextFrame.nowMs = t.nextFrame.nowMs) (hk : k s.nextFrame = k' t.nextFrame) :
    withClock s k = withClock t k' := by
  by_cases hc : s.lastMs ≤ s.nextFrame.nowMs
  · rw [withClock_ok k hc, withClock_ok k' (by omega), hk]
  · rw [withClock_back k (by omega), withClock_back k' (by omega)]

/-- Settles O11: the key mux names a pressed key, and the poll is a governor run of the completed FX0A. -/
theorem waitPollWithAKeyCompletes : Obligations.WaitPollWithAKeyCompletes := by
  intro s x hm hkeys
  obtain ⟨k, hpick, hk16, hdown, hlowest⟩ := keyPick?_some (s.takeFrame.refreshLatch s.nextFrame) hkeys
  refine ⟨k, { pollCompleted s.nextFrame x k s with frameDone := true }, ?step, hk16, hdown, hlowest,
    State.getV_setV_same _ x _, rfl, rfl, rfl, rfl, rfl, rfl, rfl, rfl,
    fun r hr => State.getV_setV_ne _ x r _ hr, rfl, rfl, rfl, rfl, rfl, rfl, rfl, rfl, rfl, rfl⟩
  case step => exact (step_awaiting hm).trans (withClock_governor (waitPoll_key x hpick) rfl)

/-- Settles O12: without a key the poll is the close of the frame in AwaitingKey. -/
theorem waitPollWithoutAKeyKeepsWaiting : Obligations.WaitPollWithoutAKeyKeepsWaiting := by
  intro s x hm hkeys u
  have hu : s.takeFrame.refreshLatch s.nextFrame = u := by
    simp only [State.refreshLatch, State.takeFrame, hkeys, u]
  have hpoll : waitPoll s.nextFrame x s = closeFrame s.nextFrame.nowMs u := hu ▸ waitPoll_noPick x (keyPick?_none _ hkeys)
  refine ⟨fun hp hclock => ?frozen, fun hp => ?ticking⟩
  case frozen => rw [step_awaiting hm, withClock_ok _ hclock, hpoll, closeFrame_awaiting_frozen _ (s := u) hm hp]
  case ticking =>
    rw [step_awaiting hm]
    exact withClock_governor (hpoll.trans (closeFrame_awaiting_ticking _ hm hp)) rfl

/-- Settles O13: both frames leave the same state after the latch refresh, and the clock test is the same. -/
theorem waitPollIgnoresQuitAndRandomByte : Obligations.WaitPollIgnoresQuitAndRandomByte := by
  intro s x f g fs hm hkeys hnow
  have hpoll : waitPoll f x { s with inputs := f :: fs } = waitPoll g x { s with inputs := g :: fs } :=
    waitPoll_congr x hnow (by simp only [State.takeFrame, State.refreshLatch, List.tail_cons, hkeys])
  rw [step_awaiting (s := { s with inputs := f :: fs }) hm, step_awaiting (s := { s with inputs := g :: fs }) hm]
  exact withClock_congr rfl hnow hpoll

/-! ### The latch from before the frame -/

theorem Mode.eq_awaitingKey {m : Mode} (h : m.isAwaiting = true) : ∃ x, m = .awaitingKey x := by
  cases m with
  | awaitingKey x => exact ⟨x, rfl⟩
  | running | faulted | stopped => cases h

/-- Settles O27: both a cycle and a poll start from a state after the latch refresh, which drops the old latch. -/
theorem staleLatchIsOverwritten : Obligations.StaleLatchIsOverwritten := by
  rintro s l (⟨hrun, hquit⟩ | hwait)
  · have hframe : runningFrame s.nextFrame { s with latch := l } = runningFrame s.nextFrame s := by
      rw [runningFrame_cycle _ hquit, runningFrame_cycle _ hquit]; rfl
    rw [step_running hrun, step_running (s := { s with latch := l }) hrun]
    exact withClock_congr rfl rfl hframe
  · obtain ⟨x, hm⟩ := Mode.eq_awaitingKey hwait
    have hpoll : waitPoll s.nextFrame x { s with latch := l } = waitPoll s.nextFrame x s := waitPoll_congr x rfl rfl
    rw [step_awaiting hm, step_awaiting (s := { s with latch := l }) hm]
    exact withClock_congr rfl rfl hpoll

end Sys2Proof.Machine
end

section
/-!
SUPPORT and PROOF. The timers and the faults along a step: one governor run lowers a timer by at most one, and what
ends in Faulted has not reached the governor (spec/10_state.md R22, R30; spec/60_exceptions.md R110, R116).
-/

namespace Sys2Proof.Machine

/-! ### One governor run -/

section
variable (s : State) (n : Nat)
@[simp] theorem State.governed_mode : (s.governed n).mode = s.mode := by rw [State.governed_eq]
@[simp] theorem State.governed_pc : (s.governed n).pc = s.pc := by rw [State.governed_eq]
@[simp] theorem State.governed_sp : (s.governed n).sp = s.sp := by rw [State.governed_eq]
@[simp] theorem State.governed_stack : (s.governed n).stack = s.stack := by rw [State.governed_eq]
@[simp] theorem State.governed_mem : (s.governed n).mem = s.mem := by rw [State.governed_eq]
@[simp] theorem State.governed_frameDone : (s.governed n).frameDone = s.frameDone := by rw [State.governed_eq]
end

/-- A timer went from a to b: it stayed, or it is one lower. -/
def FellAtMostOne (a b : Byte) : Prop := b = a ∨ b.toNat + 1 = a.toNat

theorem FellAtMostOne.bounds {a b : Byte} (h : FellAtMostOne a b) : b.toNat ≤ a.toNat ∧ a.toNat ≤ b.toNat + 1 := by
  obtain rfl | h := h <;> omega

theorem fellAtMostOne_decay (t : Byte) : FellAtMostOne t (decay t) := by
  by_cases h : t = 0x00#8
  · exact .inl (by simp [decay, h])
  · have hpos : t.toNat ≠ 0 := fun e => h (BitVec.eq_of_toNat_eq e)
    have hlow := decay_toNat t
    exact .inr (by omega)

theorem governed_timers (s : State) (n : Nat) :
    FellAtMostOne s.dt (s.governed n).dt ∧ FellAtMostOne s.st (s.governed n).st := by
  by_cases h : 166 ≤ s.acc + 10 * (n - s.lastMs)
  · rw [State.governed_tick s n h]; exact ⟨fellAtMostOne_decay _, fellAtMostOne_decay _⟩
  · rw [State.governed_noTick s n (by omega)]; exact ⟨.inl rfl, .inl rfl⟩

/-! ### The close of a frame and a poll -/

theorem closeFrame_next_dt {n : Nat} {s t : State} (h : closeFrame n s = .next t) : FellAtMostOne s.dt t.dt := by
  obtain ⟨-, -, rfl⟩ | ⟨-, -, rfl⟩ | ⟨-, rfl⟩ := closeFrame_next h
  · exact (governed_timers { s with frameDone := true } n).1
  · exact (governed_timers s n).1
  · exact .inl rfl

theorem closeFrame_next_mode {n : Nat} {s t : State} (h : closeFrame n s = .next t) : t.mode = s.mode := by
  obtain ⟨-, -, rfl⟩ | ⟨-, -, rfl⟩ | ⟨-, rfl⟩ := closeFrame_next h <;> simp

theorem waitPoll_next_dt {f : FrameIn} {x : Nibble} {s t : State} (h : waitPoll f x s = .next t) :
    FellAtMostOne s.dt t.dt := by
  obtain ⟨k, -, hw⟩ | ⟨-, hw⟩ := waitPoll_cases f x s
  · simpa using closeFrame_next_dt (hw.symm.trans h)
  · simpa using closeFrame_next_dt (hw.symm.trans h)

/-- Settles O16: an instruction other than FX15 keeps DT, and the close of the frame runs the governor at most once. -/
theorem delayTimerFallsByAtMostOneAStep : Obligations.DelayTimerFallsByAtMostOneAStep := by
  intro s t h hword
  obtain ⟨-, -, -, rfl⟩ | ⟨-, -, -, -, rfl⟩ | ⟨-, -, -, -, u, hexec, hclose⟩ | ⟨x, -, -, hpoll⟩ | ⟨-, rfl⟩ :=
    step_next h
  · exact .inl rfl
  · exact .inl rfl
  · have hdt : u.dt = s.dt :=
      exec_next_keeps (·.dt) State.setMode_dt (s := s.openFrame s.nextFrame) hexec (completed_dt _ hword)
    exact hdt ▸ closeFrame_next_dt hclose
  · exact waitPoll_next_dt hpoll
  · exact .inl rfl

/-- Settles O17: a poll that keeps waiting changes no timer and does not run the governor, and one that finds a key is
one governor run. -/
theorem keyWaitStarvesTheTimers : Obligations.KeyWaitStarvesTheTimers := by
  intro s t x hm hp h
  have hpoll := (withClock_next ((step_awaiting hm).symm.trans h)).2
  cases hkey : (s.takeFrame.refreshLatch s.nextFrame).keyPick? with
  | none =>
    have hclose := (waitPoll_noPick x hkey).trans (closeFrame_awaiting_frozen _ hm hp)
    cases hclose.symm.trans hpoll
    exact ⟨fun _ => ⟨rfl, rfl, rfl, rfl⟩, fun hrun => by cases hm.symm.trans hrun⟩
  | some k =>
    obtain ⟨-, rfl⟩ := governor_next ((waitPoll_key x hkey).symm.trans hpoll)
    refine ⟨fun hwait => ?_, fun _ => ?_⟩
    · cases (State.governed_mode _ _).symm.trans hwait
    · obtain ⟨hdt, hst⟩ := governed_timers { pollCompleted s.nextFrame x k s with frameDone := true } s.nextFrame.nowMs
      exact ⟨hdt.bounds.1, hdt.bounds.2, hst.bounds.1, hst.bounds.2⟩

/-! ### A step that ends in Faulted (R110) -/

/-- Settles O19: a completed or waiting instruction leaves the frame in another mode, so the step was a fetch fault or
an instruction's fault, and then the close of the frame does nothing. -/
theorem faultsAreTakenPrecisely : Obligations.FaultsAreTakenPrecisely := by
  intro s t c n hrun h hfault
  obtain ⟨-, -, -, rfl⟩ | ⟨-, -, -, -, rfl⟩ | ⟨-, -, -, -, u, hexec, hclose⟩ | ⟨x, hm, -⟩ | ⟨hm, -⟩ := step_next h
  · cases hfault
  · cases hfault; rfl
  · have hu : u.mode = .faulted c n := (closeFrame_next_mode hclose).symm.trans hfault
    cases (closeFrame_faulted s.nextFrame.nowMs hu).symm.trans hclose
    obtain ⟨-, rfl⟩ | ⟨c', n', rfl⟩ | ⟨x, -, rfl⟩ := exec_next hexec
    · cases hrun.symm.trans ((completed_mode (s.openFrame s.nextFrame)).symm.trans hu)
    · cases hu; rfl
    · cases hu
  · cases hrun.symm.trans hm
  · obtain ⟨c, n, hm⟩ | hm := hm <;> cases hrun.symm.trans hm

end Sys2Proof.Machine
end

section
/-!
SUPPORT and PROOF. What reset leaves (spec/70_reset_and_hazards.md R122, spec/20_memory.md R36, R38, R47).
-/

namespace Sys2Proof.Machine

/-! ### Memory after reset -/

/-- Memory with the font alone is in canonical form. -/
theorem fontMemory_wf (l : Launch) : Memory.wf (Memory.setBytes [] Config.fontBase l.font.toList) = true :=
  Memory.wf_setBytes (by simp [Config.fontBase, Config.memSize]) rfl

/-- The image, cut to its maximum, ends where memory ends. -/
theorem image_fits (l : Launch) : Config.programBase + (l.rom.take Config.romMax).length ≤ Config.memSize := by
  simp only [List.length_take, Config.programBase, Config.romMax, Config.memSize]; omega

theorem resetMemory_wf (l : Launch) : Memory.wf (resetMemory l) = true :=
  Memory.wf_setBytes (image_fits l) (fontMemory_wf l)

/-- Off the font's addresses an unlisted byte is 0. -/
theorem Memory.unlisted_zero {a : Nat} (h : ¬(0x050 ≤ a ∧ a < 0x0A0)) : Memory.unlisted a = 0 := by
  unfold Memory.unlisted; rw [if_neg]; simpa only [Config.fontBase] using h

/-- The font part of memory, and 0 elsewhere. -/
theorem fontMemory_get (l : Launch) (a : Nat) :
    Memory.get (Memory.setBytes [] Config.fontBase l.font.toList) a =
      if 0x050 ≤ a ∧ a < 0x0A0 then l.font.toList.getD (a - 0x050) 0 else 0 := by
  rw [Memory.get_setBytes a (by simp [Config.fontBase, Config.memSize]) rfl]
  simp only [Config.fontBase, Vector.length_toList]
  by_cases h : 0x050 ≤ a ∧ a < 0x0A0
  · rw [if_pos h, if_pos h]
  · rw [if_neg h, if_neg h]; exact Memory.unlisted_zero h

/-- Each byte of memory after reset: the font, the image as far as it is kept, and 0 elsewhere. -/
theorem resetMemory_get (l : Launch) {a : Nat} (ha : a < 0x1000) :
    Memory.get (resetMemory l) a =
      if 0x050 ≤ a ∧ a < 0x0A0 then l.font.toList.getD (a - 0x050) 0
      else if 0x200 ≤ a ∧ a < 0x200 + l.rom.length then l.rom.getD (a - 0x200) 0
      else 0 := by
  unfold resetMemory
  rw [Memory.get_setBytes a (image_fits l) (fontMemory_wf l), fontMemory_get]
  simp only [Config.programBase, Config.romMax, List.length_take]
  by_cases hfont : 0x050 ≤ a ∧ a < 0x0A0
  · rw [if_pos hfont, if_pos hfont, if_neg (by omega)]
  · rw [if_neg hfont, if_neg hfont]
    by_cases himage : 0x200 ≤ a ∧ a < 0x200 + l.rom.length
    · have hkept : a - 0x200 < 3584 := by omega
      rw [if_pos himage, if_pos (by omega)]
      simp only [List.getD_eq_getElem?_getD, List.getElem?_take, hkept, if_true]
    · rw [if_neg himage, if_neg (by omega)]

/-- The default launch lists no byte: its font is what unlisted addresses read as. -/
theorem resetMemory_default : resetMemory defaultLaunch = [] := by decide

theorem resetWith_default : State.resetWith defaultLaunch = State.reset := by
  unfold State.resetWith; rw [resetMemory_default]; rfl

/-- Settles O28: memory by the lemma above; every other field is the launch's or a constant of State.reset. -/
theorem resetLeavesTheListedValues : Obligations.ResetLeavesTheListedValues := by
  refine ⟨?_, resetWith_default⟩
  rintro l s rfl
  refine ⟨fun r => ?regs, rfl, rfl, rfl, fun k => ?slots, rfl, rfl, fun x y => Framebuffer.pixel_blank x y, rfl, rfl,
    rfl, rfl, fun a ha => resetMemory_get l ha⟩
  case regs => simp [State.getV, State.resetWith, State.reset]
  case slots => simp [State.resetWith, State.reset]

end Sys2Proof.Machine
end

section
/-!
SUPPORT and PROOF. The invariant: it holds at reset, each operation of a frame keeps it, and so does every step
(spec/10_state.md R16, R20, R21; spec/40_flow.md R61).
-/

namespace Sys2Proof.Machine

/-! ### The stack's part of the invariant -/

/-- The invariant's clauses on SP and the stack. -/
def State.StackInv (s : State) : Prop :=
  s.sp.toNat ≤ 15 ∧ s.stack[0] = 0x0000#16 ∧
  ∀ k : Fin 16, s.stack[k].toNat ≤ 0x1000 ∧ s.stack[k].toNat < 2 ^ s.params.stackSlotWidth

/-- The invariant, its stack clauses under one name. -/
theorem State.inv_iff (s : State) : s.Inv ↔
    Memory.wf s.mem = true ∧ s.StackInv ∧ s.pc.toNat ≤ 0x10FE ∧
    (s.mode.isAwaiting = true → s.pc.toNat ≤ 0xFFE) ∧ (s.frameDone = true → s.mode = .running) := by
  simp only [State.Inv, State.StackInv, and_assoc]

/-- The stack clauses are about SP, the stack and the parameters alone. -/
theorem State.StackInv.congr {s t : State} (h : s.StackInv) (hsp : t.sp = s.sp) (hstack : t.stack = s.stack)
    (hparams : t.params = s.params) : t.StackInv := by
  unfold State.StackInv; rw [hsp, hstack, hparams]; exact h

/-- A call that has room pushes a return address of at most 0x1000 into a slot other than slot 0. -/
theorem State.StackInv.push {s : State} (h : s.StackInv) {w : Word} (hroom : s.sp.toNat < 15)
    (hw : w.toNat ≤ 0x1000) : (s.push w).StackInv := by
  obtain ⟨-, hzero, hslots⟩ := h
  refine ⟨?sp, ?zero, fun k => ?slot⟩
  case sp => rw [push_sp_toNat s w hroom]; omega
  case zero => simpa using hzero
  case slot =>
    obtain ⟨hle, hfits⟩ := slotValue_bounds s.params.stackSlotWidth w
    by_cases hk : s.sp.toNat + 1 = k.val
    · simp only [State.push_stack, State.push_params, Fin.getElem_fin, Vector.getElem_setIfInBounds, hk, if_true]
      exact ⟨by omega, hfits⟩
    · simpa [Vector.getElem_setIfInBounds, hk] using hslots k

/-- A return leaves the slots alone and lowers SP. -/
theorem State.StackInv.dropTop {s : State} (h : s.StackInv) (hcalled : s.sp.toNat ≠ 0) : s.dropTop.StackInv := by
  obtain ⟨hsp, hzero, hslots⟩ := h
  refine ⟨?_, hzero, hslots⟩
  simp only [State.dropTop_sp, BitVec.toNat_sub, BitVec.toNat_ofNat]; omega

/-! ### A completed instruction keeps each clause -/

theorem wf_of_mem_eq {s t : State} (hmem : Memory.wf s.mem = true) (h : t.mem = s.mem) : Memory.wf t.mem = true :=
  h ▸ hmem

theorem completed_wf {i : Instr} {s : State} (hlaw : Lawful i s) (hmem : Memory.wf s.mem = true) :
    Memory.wf (completed i s).mem = true := by
  cases i
  case ldB x =>
    have hr : indexBase s + 2 ≤ 0xFFF := hlaw
    exact Memory.wf_setBytes (by rw [bcdDigits_length, Config.memSize]; omega) hmem
  case ldMemVx x =>
    have hr : indexBase s + x.toNat ≤ 0xFFF := hlaw
    exact Memory.wf_setBytes (by rw [firstRegs_regCount_length, Config.memSize]; omega) hmem
  all_goals exact wf_of_mem_eq hmem (completed_mem s nofun nofun)

/-- The address after an instruction that can be fetched, and after a skip of one. -/
theorem pc_after_fetchable {pc : Word} (h : pc.toNat ≤ 0xFFE) :
    (pc + 2#16).toNat = pc.toNat + 2 ∧ (pc + 4#16).toNat = pc.toNat + 4 := by
  simp only [BitVec.toNat_add, BitVec.toNat_ofNat]; omega

theorem completed_pc_le_of_advance {i : Instr} {s : State} (hjump : setsJumped i = false) (hpc : s.pc.toNat ≤ 0xFFE) :
    (completed i s).pc.toNat ≤ 0x1002 := by
  obtain ⟨h2, h4⟩ := pc_after_fetchable hpc
  obtain hmove | ⟨-, hmove⟩ := completed_pc s hjump
  · rw [hmove]; omega
  · rw [hmove]; omega

theorem completed_stackInv {i : Instr} {s : State} (hlaw : Lawful i s) (hstack : s.StackInv)
    (hpc : s.pc.toNat ≤ 0xFFE) : (completed i s).StackInv := by
  cases i
  case ret => exact (hstack.dropTop hlaw.1).congr rfl rfl rfl
  case call a =>
    have hw := (pc_after_fetchable hpc).1
    exact (hstack.push (w := s.pc + 2#16) hlaw (by omega)).congr rfl rfl rfl
  all_goals exact hstack.congr (completed_sp s nofun nofun) (completed_stack s nofun) (completed_params _ s)

theorem absolute_toNat (a : Addr) : (absolute a).toNat = a.toNat := by simp [absolute]; omega

theorem absolutePlusV0_toNat (a : Addr) (s : State) :
    (absolutePlusV0 a s).toNat = a.toNat + (s.getV 0#4).toNat := by
  have ha := a.isLt
  have hv := (s.getV 0#4).isLt
  simp only [absolutePlusV0, BitVec.toNat_add, BitVec.toNat_setWidth]; omega

/-- The largest PC an instruction leaves is BNNN's, 0xFFF + 0xFF; a return address is at most 0x1000. -/
theorem completed_pc_le {i : Instr} {s : State} (hlaw : Lawful i s) (hstack : s.StackInv)
    (hpc : s.pc.toNat ≤ 0xFFE) : (completed i s).pc.toNat ≤ 0x10FE := by
  cases i
  case ret =>
    obtain ⟨-, hsp⟩ := hlaw
    have hslot := (hstack.2.2 ⟨s.sp.toNat, by omega⟩).1
    simp only [completed, top?_eq s hsp, State.setPc_pc, Option.getD_some]
    exact Nat.le_trans hslot (by decide)
  case jp a => have := a.isLt; simp only [completed, State.setPc_pc, absolute_toNat]; omega
  case call a => have := a.isLt; simp only [completed, State.setPc_pc, absolute_toNat]; omega
  case jpV0 a =>
    have ha := a.isLt
    have hv := (s.getV 0#4).isLt
    simp only [completed, State.setPc_pc, absolutePlusV0_toNat]; omega
  all_goals exact Nat.le_trans (completed_pc_le_of_advance rfl hpc) (by decide)

/-! ### The operations of a frame -/

theorem State.Inv.takeFrame {s : State} (h : s.Inv) : s.takeFrame.Inv := by
  obtain ⟨hmem, hstack, hpc, hwait, -⟩ := s.inv_iff.1 h
  exact (State.inv_iff _).2 ⟨hmem, hstack, hpc, hwait, nofun⟩

theorem State.Inv.refreshLatch {s : State} (h : s.Inv) (f : FrameIn) : (s.refreshLatch f).Inv := h

theorem State.Inv.openFrame {s : State} (h : s.Inv) (f : FrameIn) : (s.openFrame f).Inv := h.takeFrame

/-- MODE may change while frame_done is low, if a core that comes to wait is at a fetchable PC. -/
theorem State.Inv.setMode {s : State} (h : s.Inv) {m : Mode} (hlow : s.frameDone = false)
    (hfetch : m.isAwaiting = true → s.pc.toNat ≤ 0xFFE) : (s.setMode m).Inv := by
  obtain ⟨hmem, hstack, hpc, -, -⟩ := s.inv_iff.1 h
  exact (State.inv_iff _).2 ⟨hmem, hstack, hpc, hfetch, fun hhigh => by cases hlow.symm.trans hhigh⟩

theorem State.Inv.governed {s : State} (h : s.Inv) (n : Nat) : (s.governed n).Inv := by
  obtain ⟨hmem, hstack, hpc, hwait, hdone⟩ := s.inv_iff.1 h
  have hstack' := hstack.congr (State.governed_sp s n) (State.governed_stack s n) (State.governed_params s n)
  exact (State.inv_iff _).2 ⟨by simpa, hstack', by simpa, by simpa, by simpa⟩

theorem State.Inv.finishFrame {s : State} (h : s.Inv) (hrun : s.mode = .running) :
    State.Inv { s with frameDone := true } := by
  obtain ⟨hmem, hstack, hpc, hwait, -⟩ := s.inv_iff.1 h
  exact (State.inv_iff _).2 ⟨hmem, hstack, hpc, hwait, fun _ => hrun⟩

theorem State.Inv.completed {i : Instr} {s : State} (h : s.Inv) (hlaw : Lawful i s) (hrun : s.mode = .running)
    (hpc : s.pc.toNat ≤ 0xFFE) : (completed i s).Inv := by
  obtain ⟨hmem, hstack, -, -, -⟩ := s.inv_iff.1 h
  have hmode : (Machine.completed i s).mode = .running := (completed_mode s).trans hrun
  refine (State.inv_iff _).2 ⟨completed_wf hlaw hmem, completed_stackInv hlaw hstack hpc,
    completed_pc_le hlaw hstack hpc, fun hwait => ?_, fun _ => hmode⟩
  rw [hmode] at hwait; cases hwait

/-- An instruction run from a fetchable PC keeps the invariant, whether it completes, faults or waits. -/
theorem State.Inv.exec_next {i : Instr} {s t : State} (h : s.Inv) (hrun : s.mode = .running)
    (hlow : s.frameDone = false) (hpc : s.pc.toNat ≤ 0xFFE) (hexec : exec i s = .next t) : t.Inv := by
  obtain ⟨hlaw, rfl⟩ | ⟨c, n, rfl⟩ | ⟨x, -, rfl⟩ := Machine.exec_next hexec
  · exact h.completed hlaw hrun hpc
  · exact h.setMode hlow nofun
  · exact h.setMode hlow fun _ => hpc

theorem State.Inv.closeFrame_next {n : Nat} {s t : State} (h : s.Inv) (hclose : closeFrame n s = .next t) :
    t.Inv := by
  obtain ⟨hrun, -, rfl⟩ | ⟨-, -, rfl⟩ | ⟨-, rfl⟩ := Machine.closeFrame_next hclose
  · exact (h.finishFrame hrun).governed n
  · exact h.governed n
  · exact h

/-- The deferred advance of a waiting FX0A starts from a fetchable PC. -/
theorem State.Inv.pollCompleted {s : State} (h : s.Inv) (hwait : s.mode.isAwaiting = true) (f : FrameIn) (x : Nibble)
    (k : Nat) : (pollCompleted f x k s).Inv := by
  obtain ⟨hmem, hstack, -, hfetch, -⟩ := s.inv_iff.1 h
  have hpc : (s.pc + 2#16).toNat ≤ 0x1000 := by
    have hadd := (pc_after_fetchable (hfetch hwait)).1
    have hle := hfetch hwait
    omega
  exact (State.inv_iff _).2 ⟨hmem, hstack, Nat.le_trans hpc (by decide), nofun, nofun⟩

theorem State.Inv.waitPoll_next {f : FrameIn} {x : Nibble} {s t : State} (h : s.Inv)
    (hwait : s.mode.isAwaiting = true) (hpoll : waitPoll f x s = .next t) : t.Inv := by
  obtain ⟨k, -, hw⟩ | ⟨-, hw⟩ := waitPoll_cases f x s
  · exact (h.pollCompleted hwait f x k).closeFrame_next (hw.symm.trans hpoll)
  · exact (h.takeFrame.refreshLatch f).closeFrame_next (hw.symm.trans hpoll)

/-- Settles O23: each way a step can end is made of operations that keep the invariant. -/
theorem invariantHoldsAfterEveryStep : Obligations.InvariantHoldsAfterEveryStep := by
  intro s t h hstep
  obtain ⟨-, -, -, rfl⟩ | ⟨-, -, -, -, rfl⟩ | ⟨hrun, -, -, hpc, u, hexec, hclose⟩ | ⟨x, hm, -, hpoll⟩ | ⟨-, rfl⟩ :=
    step_next hstep
  · exact h.takeFrame.setMode rfl nofun
  · exact (h.openFrame _).setMode rfl nofun
  · exact ((h.openFrame _).exec_next hrun rfl hpc hexec).closeFrame_next hclose
  · exact h.waitPoll_next (by rw [hm]; rfl) hpoll
  · exact h

/-! ### Reset -/

theorem resetWith_inv (l : Launch) (hpc : l.pcReset.toNat ≤ 0x10FE) : (State.resetWith l).Inv := by
  refine (State.inv_iff _).2 ⟨resetMemory_wf l, ⟨?sp, ?zero, fun k => ?slot⟩, hpc, nofun, nofun⟩
  case sp => simp [State.resetWith, State.reset]
  case zero => simp [State.resetWith, State.reset]
  case slot => simp [State.resetWith, State.reset]

/-- Settles O24: the reset state is the default launch's. -/
theorem invariantHoldsAtReset : Obligations.InvariantHoldsAtReset :=
  ⟨resetWith_default ▸ resetWith_inv defaultLaunch (by decide), resetWith_inv⟩

end Sys2Proof.Machine
end

section
/-!
SUPPORT and PROOF. The sound timer is invisible: every operation gives, from states that differ in ST alone, answers
that differ in ST alone (spec/10_state.md R22).
-/

namespace Sys2Proof.Machine

/-! ### States that differ in ST alone -/

/-- States that agree once ST is hidden differ in ST alone. -/
theorem eq_setSt_of_hidden {s t : State} (h : s.setSt 0x00#8 = t.setSt 0x00#8) : s = t.setSt s.st :=
  calc s = (s.setSt 0x00#8).setSt s.st := rfl
    _ = (t.setSt 0x00#8).setSt s.st := by rw [h]
    _ = t.setSt s.st := rfl

/-! ### Instructions -/

section
variable (s : State) (x : Byte)

theorem hideSound_skipIf (c : Bool) : hideSound (skipIf c (s.setSt x)) = hideSound (skipIf c s) := by
  cases c <;> rfl

theorem hideSound_withBytesAtI (len : Nat) {k k' : List Byte → Result}
    (hk : ∀ bytes, hideSound (k bytes) = hideSound (k' bytes)) :
    hideSound (withBytesAtI len (s.setSt x) k) = hideSound (withBytesAtI len s k') := by
  obtain ⟨h, hr⟩ | ⟨h, h1, h2⟩ := withBytesAtI_cases len s k'
  · rw [h, withBytesAtI_ok (s := s.setSt x) k hr]; exact hk _
  · rw [h, withBytesAtI_error (s := s.setSt x) k h1 h2]; rfl

theorem hideSound_withSelectedKey (r : Nibble) {k k' : Bool → Result}
    (hk : ∀ down, hideSound (k down) = hideSound (k' down)) :
    hideSound (withSelectedKey r (s.setSt x) k) = hideSound (withSelectedKey r s k') := by
  by_cases h : (s.getV r).toNat ≤ 15
  · rw [withSelectedKey_ok k' h, withSelectedKey_ok (s := s.setSt x) k h]; exact hk _
  · rw [withSelectedKey_error k' (by omega), withSelectedKey_error (s := s.setSt x) k (by simpa using h)]; rfl

theorem writeFlagged_setSt (f r : Byte → Byte → Byte) (a b : Nibble) :
    writeFlagged f r a b (s.setSt x) = (writeFlagged f r a b s).setSt x := by
  simp only [writeFlagged, State.setSt_params]; cases s.params.vfOrder <;> rfl

theorem writeLogic_setSt (r : Byte → Byte → Byte) (a b : Nibble) :
    writeLogic r a b (s.setSt x) = (writeLogic r a b s).setSt x := by
  simp only [writeLogic, State.setSt_params, writeFlagged_setSt]; split <;> rfl

theorem spriteOrigin_setSt (a b : Nibble) : spriteOrigin a b (s.setSt x) = spriteOrigin a b s := by
  simp only [spriteOrigin, coordinateState, State.setSt_params]; cases s.params.vfOrder <;> rfl

theorem setRegsFrom_setSt (bytes : List Byte) : ∀ (s : State) (k : Nat),
    (s.setSt x).setRegsFrom k bytes = (s.setRegsFrom k bytes).setSt x := by
  induction bytes with
  | nil => intro s k; rfl
  | cons b bytes ih => intro s k; exact ih { s with v := s.v.setIfInBounds k b } (k + 1)

/-- An instruction's next state is equal up to ST where its effects are. -/
theorem hideSound_continueWith {s t : State} (h : s.setSt 0x00#8 = t.setSt 0x00#8) :
    hideSound (continueWith s) = hideSound (continueWith t) := by
  rw [eq_setSt_of_hidden h]; rfl

/-- Every instruction but FX18 carries an old ST along, and FX18 writes over it. -/
theorem hideSound_exec (i : Instr) : hideSound (exec i (s.setSt x)) = hideSound (exec i s) := by
  cases i
  case ret =>
    by_cases h0 : s.sp.toNat = 0
    · rw [exec_ret_fault s h0, exec_ret_fault (s.setSt x) h0]; rfl
    · by_cases h1 : s.sp.toNat ≤ 15
      · rw [exec_ret_ok s h0 h1, exec_ret_ok (s.setSt x) h0 h1]; rfl
      · rw [exec_ret_absent s (by omega), exec_ret_absent (s.setSt x) (by simpa using h1)]
  case call a =>
    by_cases h : s.sp.toNat < 15
    · rw [exec_call_ok s a h, exec_call_ok (s.setSt x) a h]; rfl
    · rw [exec_call_fault s a (by omega), exec_call_fault (s.setSt x) a (by simpa using h)]; rfl
  case seImm | sneImm | seReg | sneReg => exact hideSound_skipIf s x _
  case sneQ a b n =>
    cases h : s.params.unknownPolicy with
    | noop => rw [exec_sneQ_noop s a b n h, exec_sneQ_noop (s.setSt x) a b n h]; rfl
    | refuse => rw [exec_sneQ_refuse s a b n h, exec_sneQ_refuse (s.setSt x) a b n h]
  case unknown w =>
    cases h : s.params.unknownPolicy with
    | noop => rw [exec_unknown_noop s w h, exec_unknown_noop (s.setSt x) w h]; rfl
    | refuse => rw [exec_unknown_refuse s w h, exec_unknown_refuse (s.setSt x) w h]
  case orReg | andReg | xorReg => exact hideSound_continueWith (by rw [writeLogic_setSt]; rfl)
  case addReg | sub | shr | subn | shl => exact hideSound_continueWith (by rw [writeFlagged_setSt]; rfl)
  case drw a b n => exact hideSound_withBytesAtI s x _ fun rows =>
    hideSound_continueWith (by rw [spriteOrigin_setSt]; rfl)
  case skp | sknp => exact hideSound_withSelectedKey s x _ fun _ => hideSound_skipIf s x _
  case ldVxK r =>
    cases h : s.keyPick? with
    | some k => rw [exec_ldVxK_key s r k h, exec_ldVxK_key (s.setSt x) r k h]; rfl
    | none => rw [exec_ldVxK_wait s r h, exec_ldVxK_wait (s.setSt x) r h]; rfl
  case ldB r =>
    by_cases h : indexBase s + 2 ≤ 0xFFF
    · rw [exec_ldB_ok s r h, exec_ldB_ok (s.setSt x) r h]; rfl
    · rw [exec_ldB_fault s r (Nat.lt_of_not_le h), exec_ldB_fault (s.setSt x) r (Nat.lt_of_not_le h)]; rfl
  case ldMemVx r =>
    by_cases h : indexBase s + r.toNat ≤ 0xFFF
    · rw [exec_ldMemVx_ok s r h, exec_ldMemVx_ok (s.setSt x) r h]; rfl
    · rw [exec_ldMemVx_fault s r (Nat.lt_of_not_le h), exec_ldMemVx_fault (s.setSt x) r (Nat.lt_of_not_le h)]; rfl
  case ldVxMem r =>
    exact hideSound_withBytesAtI s x _ fun bytes => hideSound_continueWith (by rw [setRegsFrom_setSt]; rfl)
  all_goals rfl

end

/-! ### The frame -/

theorem hideSound_cycle (s : State) (x : Byte) : hideSound (cycle (s.setSt x)) = hideSound (cycle s) := by
  by_cases h : s.pc.toNat ≤ 0xFFE
  · rw [cycle_exec h, cycle_exec (s := s.setSt x) h]; exact hideSound_exec s x _
  · rw [cycle_fetchFault (s := s) (by omega), cycle_fetchFault (s := s.setSt x) (by simpa using h)]; rfl

theorem hideSound_governor (n : Nat) (s : State) (x : Byte) :
    hideSound (governor n (s.setSt x)) = hideSound (governor n s) := by
  by_cases hclock : s.lastMs ≤ n
  · rw [governor_ok hclock, governor_ok (s := s.setSt x) hclock]
    by_cases htick : 166 ≤ s.acc + 10 * (n - s.lastMs)
    · rw [State.governed_tick s n htick, State.governed_tick (s.setSt x) n htick]; rfl
    · rw [State.governed_noTick s n (by omega), State.governed_noTick (s.setSt x) n (by simpa using htick)]; rfl
  · rw [governor_back (s := s) (by omega), governor_back (s := s.setSt x) (by simpa using hclock)]

theorem hideSound_closeFrame (n : Nat) (s : State) (x : Byte) :
    hideSound (closeFrame n (s.setSt x)) = hideSound (closeFrame n s) := by
  cases hm : s.mode with
  | running =>
    rw [closeFrame_running n hm, closeFrame_running (s := s.setSt x) n hm]
    exact hideSound_governor n { s with frameDone := true } x
  | awaitingKey r =>
    cases hp : s.params.timersDuringKeywait with
    | true =>
      rw [closeFrame_awaiting_ticking n hm hp, closeFrame_awaiting_ticking (s := s.setSt x) n hm hp]
      exact hideSound_governor n s x
    | false => rw [closeFrame_awaiting_frozen n hm hp, closeFrame_awaiting_frozen (s := s.setSt x) n hm hp]; rfl
  | faulted c info => rw [closeFrame_faulted n hm, closeFrame_faulted (s := s.setSt x) n hm]; rfl
  | stopped => rw [closeFrame_stopped n hm, closeFrame_stopped (s := s.setSt x) n hm]; rfl

/-- Answers of a cycle that are equal up to ST are closed to answers that are equal up to ST. -/
theorem hideSound_closeAnswer (n : Nat) {r r' : Result} (h : hideSound r = hideSound r') :
    hideSound (closeAnswer n r) = hideSound (closeAnswer n r') := by
  cases r <;> cases r'
  case next.next t t' =>
    rw [eq_setSt_of_hidden (Host.Outcome.next.inj h)]
    exact hideSound_closeFrame n t' t.st
  case fault.fault | refused.refused => exact h
  all_goals cases h

theorem hideSound_runningFrame (f : FrameIn) (s : State) (x : Byte) :
    hideSound (runningFrame f (s.setSt x)) = hideSound (runningFrame f s) := by
  cases hq : f.quit with
  | true => rw [runningFrame_quit s hq, runningFrame_quit (s.setSt x) hq]; rfl
  | false =>
    rw [runningFrame_cycle s hq, runningFrame_cycle (s.setSt x) hq]
    exact hideSound_closeAnswer f.nowMs (hideSound_cycle (s.openFrame f) x)

theorem hideSound_waitPoll (f : FrameIn) (r : Nibble) (s : State) (x : Byte) :
    hideSound (waitPoll f r (s.setSt x)) = hideSound (waitPoll f r s) := by
  cases hk : (s.takeFrame.refreshLatch f).keyPick? with
  | some k =>
    rw [waitPoll_key r hk, waitPoll_key (s := s.setSt x) r hk]
    exact hideSound_governor f.nowMs { pollCompleted f r k s with frameDone := true } x
  | none =>
    rw [waitPoll_noPick r hk, waitPoll_noPick (s := s.setSt x) r hk]
    exact hideSound_closeFrame f.nowMs (s.takeFrame.refreshLatch f) x

theorem hideSound_withClock {s : State} (x : Byte) {k k' : FrameIn → Result}
    (hk : ∀ f, hideSound (k f) = hideSound (k' f)) :
    hideSound (withClock (s.setSt x) k) = hideSound (withClock s k') := by
  by_cases hc : s.lastMs ≤ s.nextFrame.nowMs
  · rw [withClock_ok k' hc, withClock_ok (s := s.setSt x) k hc]; exact hk _
  · rw [withClock_back k' (by omega), withClock_back (s := s.setSt x) k (Nat.lt_of_not_le hc)]

/-- Settles O25: a step in each mode is made of operations from which ST is hidden. -/
theorem soundTimerIsUnobservable : Obligations.SoundTimerIsUnobservable := by
  intro s x
  cases hm : s.mode with
  | running =>
    rw [step_running hm, step_running (s := s.setSt x) hm]
    exact hideSound_withClock x fun f => hideSound_runningFrame f s x
  | awaitingKey r =>
    rw [step_awaiting hm, step_awaiting (s := s.setSt x) hm]
    exact hideSound_withClock x fun f => hideSound_waitPoll f r s x
  | faulted c n =>
    rw [terminalModesChangeNothing s (.inl ⟨c, n, hm⟩), terminalModesChangeNothing (s.setSt x) (.inl ⟨c, n, hm⟩)]; rfl
  | stopped =>
    rw [terminalModesChangeNothing s (.inr hm), terminalModesChangeNothing (s.setSt x) (.inr hm)]; rfl

end Sys2Proof.Machine
end

section
/-!
SUPPORT and PROOF. What FX55 stored is what a fetch reads (spec/20_memory.md R42, R51; spec/42_index_memory.md R90).
-/

namespace Sys2Proof.Machine

/-- The byte at I + k after V0 to VX were stored at I is Vk. -/
theorem get_storedRegs {s : State} {x k : Nibble} (hwf : Memory.wf s.mem = true)
    (hfits : indexBase s + x.toNat ≤ 0xFFF) (hk : k.toNat ≤ x.toNat) :
    Memory.get (Memory.setBytes s.mem (indexBase s) (s.firstRegs (regCount x))) (indexBase s + k.toNat) =
      s.getV k := by
  have hlen := firstRegs_regCount_length s x
  rw [Memory.get_setBytes _ (by rw [hlen, Config.memSize]; omega) hwf, hlen, if_pos (by omega),
    Nat.add_sub_cancel_left, State.firstRegs_getD s (regCount x) k (Nat.lt_succ_of_le hk)]

/-- Settles O53: each half of the fetched word is a stored register; k + 1 does not wrap, being at most X. -/
theorem fetchSeesStoredBytes : Obligations.FetchSeesStoredBytes := by
  intro s t x k hwf hfits hstore hk
  have hnext : (k + 1#4).toNat = k.toNat + 1 := by
    have := x.isLt
    exact BitVec.toNat_add_of_lt (show k.toNat + 1 < 2 ^ 4 by omega)
  have hhigh := get_storedRegs hwf hfits (Nat.le_of_succ_le hk)
  have hlow := get_storedRegs hwf hfits (hnext.trans_le hk)
  rw [hnext, ← Nat.add_assoc] at hlow
  rw [exec_ldMemVx_ok s x hfits] at hstore
  cases hstore
  simp only [fetchWord, State.advance_mem, State.setI_mem, State.setMem_mem, hhigh, hlow]

end Sys2Proof.Machine
end

section
/-!
SUPPORT and PROOF. Encoder and decoder against each other and against the opcode map (spec/30_encoding.md R53 to R57,
R59). `encode_decode` loses no bit, `decode_eq_unknown_iff` finds R57's families, and `row_decode_of_matches` finds the
row of a word; the statements follow from these three.
-/

namespace Sys2Proof

/-! ### Nibbles put together in another order -/

theorem append_byte_eq_wordOfNibbles (a b c d : Nibble) : a ++ b ++ (c ++ d) = wordOfNibbles a b c d := by
  rw [wordOfNibbles, BitVec.append_assoc (x₁ := a ++ b) (x₂ := c), BitVec.cast_eq]

theorem append_addr_eq_wordOfNibbles (a b c d : Nibble) : a ++ (b ++ c ++ d) = wordOfNibbles a b c d := by
  rw [wordOfNibbles, BitVec.append_assoc (x₁ := a) (x₂ := b) (x₃ := c), BitVec.cast_eq,
    BitVec.append_assoc (x₁ := a) (x₂ := b ++ c), BitVec.cast_eq]

/-! ### The word of a decoded instruction -/

theorem encode_decodeAlu (x y d : Nibble) : encode (decodeAlu x y d) = wordOfNibbles 0x8#4 x y d := by
  fun_cases decodeAlu x y d
  all_goals rfl

theorem encode_decodeKey (x : Nibble) (kk : Byte) : encode (decodeKey x kk) = 0xE#4 ++ x ++ kk := by
  fun_cases decodeKey x kk
  all_goals rfl

theorem encode_decodeMisc (x : Nibble) (kk : Byte) : encode (decodeMisc x kk) = 0xF#4 ++ x ++ kk := by
  fun_cases decodeMisc x kk
  all_goals rfl

/-- The decoder's last branch, which names no family, is the F family's. -/
theorem nibble_eq_fifteen {a : Nibble}
    (h : a ∉ [0x0#4, 0x1#4, 0x2#4, 0x3#4, 0x4#4, 0x5#4, 0x6#4, 0x7#4, 0x8#4, 0x9#4, 0xA#4, 0xB#4, 0xC#4, 0xD#4,
      0xE#4]) : a = 0xF#4 := by
  revert a; decide

theorem encode_decodeNibbles (a b c d : Nibble) : encode (decodeNibbles a b c d) = wordOfNibbles a b c d := by
  fun_cases decodeNibbles a b c d
  case case1 h | case2 h => obtain ⟨rfl, rfl, rfl⟩ := h; rfl
  case case3 | case9 | case14 | case18 => rfl
  case case4 | case5 | case15 | case16 => exact append_addr_eq_wordOfNibbles _ b c d
  case case6 | case7 | case10 | case11 | case17 => exact append_byte_eq_wordOfNibbles _ b c d
  case case8 h | case13 h => subst h; rfl
  case case12 => exact encode_decodeAlu b c d
  case case19 => rw [encode_decodeKey, append_byte_eq_wordOfNibbles]
  case case20 =>
    obtain rfl : a = 0xF#4 := nibble_eq_fifteen (by simp_all)
    rw [encode_decodeMisc, append_byte_eq_wordOfNibbles]

/-- Decoding loses no bit. -/
theorem encode_decode (w : Word) : encode (decode w) = w := by
  rw [decode, encode_decodeNibbles, wordOfNibbles_split]

/-! ### The arithmetic of R57 on a word given by its nibbles -/

theorem toNat_append_nibble {n : Nat} (v : BitVec n) (d : Nibble) : (v ++ d).toNat = v.toNat * 16 + d.toNat := by
  rw [BitVec.toNat_append, ← Nat.shiftLeft_add_eq_or_of_lt d.isLt, Nat.shiftLeft_eq]

theorem toNat_wordOfNibbles (a b c d : Nibble) :
    (wordOfNibbles a b c d).toNat = a.toNat * 0x1000 + b.toNat * 0x100 + c.toNat * 0x10 + d.toNat := by
  simp only [wordOfNibbles, toNat_append_nibble]
  omega

theorem wordOfNibbles_family (a b c d : Nibble) : (wordOfNibbles a b c d).toNat / 0x1000 = a.toNat := by
  rw [toNat_wordOfNibbles]
  omega

theorem wordOfNibbles_lowNibble (a b c d : Nibble) : (wordOfNibbles a b c d).toNat % 16 = d.toNat := by
  rw [toNat_wordOfNibbles]
  omega

theorem wordOfNibbles_lowByte (a b c d : Nibble) : (wordOfNibbles a b c d).toNat % 256 = (c ++ d).toNat := by
  rw [toNat_wordOfNibbles, toNat_append_nibble]
  omega

/-- The words 00E0 to 00EF, of which CLS and RET are two. -/
theorem toNat_wordOfNibbles_system (b c d e : Nibble) :
    (wordOfNibbles 0x0#4 b c d).toNat = 0x00E0 + e.toNat ↔ b = 0 ∧ c = 0xE ∧ d = e := by
  rw [toNat_wordOfNibbles]
  bv_omega

/-! ### Which branches of the decoder end in the unknown instruction -/

theorem decodeAlu_eq_unknown_iff (x y d : Nibble) :
    (∃ u, decodeAlu x y d = .unknown u) ↔ [0x8, 0x9, 0xA, 0xB, 0xC, 0xD, 0xF].contains d.toNat = true := by
  fun_cases decodeAlu x y d
  case case10 =>
    simp_all [← BitVec.toNat_inj]
    omega
  all_goals simp

theorem decodeKey_eq_unknown_iff (x : Nibble) (kk : Byte) :
    (∃ u, decodeKey x kk = .unknown u) ↔ [0x9E, 0xA1].contains kk.toNat = false := by
  fun_cases decodeKey x kk
  case case3 => simp_all [← BitVec.toNat_inj]
  all_goals simp

theorem decodeMisc_eq_unknown_iff (x : Nibble) (kk : Byte) :
    (∃ u, decodeMisc x kk = .unknown u) ↔
      [0x07, 0x0A, 0x15, 0x18, 0x1E, 0x29, 0x33, 0x55, 0x65].contains kk.toNat = false := by
  fun_cases decodeMisc x kk
  case case10 => simp_all [← BitVec.toNat_inj]
  all_goals simp

theorem decodeNibbles_eq_unknown_iff (a b c d : Nibble) :
    (∃ u, decodeNibbles a b c d = .unknown u) ↔ isUnknownWord (wordOfNibbles a b c d) = true := by
  have hcls := toNat_wordOfNibbles_system b c d 0x0#4
  have hret := toNat_wordOfNibbles_system b c d 0xE#4
  simp only [isUnknownWord, wordOfNibbles_family, wordOfNibbles_lowNibble, wordOfNibbles_lowByte]
  fun_cases decodeNibbles a b c d
  case case1 | case2 | case3 => simp_all
  case case9 h => simpa [← BitVec.toNat_inj] using h
  case case12 => simpa using decodeAlu_eq_unknown_iff b c d
  case case19 => simpa using decodeKey_eq_unknown_iff b (c ++ d)
  case case20 =>
    obtain rfl : a = 0xF#4 := nibble_eq_fifteen (by simp_all)
    simpa using decodeMisc_eq_unknown_iff b (c ++ d)
  -- what is left is known: SE, SNE and the families without an unknown word
  all_goals simp [*]

/-- The words that decode as unknown are those of R57. -/
theorem decode_eq_unknown_iff (w : Word) : (∃ u, decode w = .unknown u) ↔ isUnknownWord w = true := by
  rw [decode, decodeNibbles_eq_unknown_iff, wordOfNibbles_split]

/-- Decoding loses no bit, so an unknown word is decoded as itself. -/
theorem decode_unknownWord {w : Word} (h : isUnknownWord w = true) : decode w = .unknown w := by
  obtain ⟨u, hu⟩ := (decode_eq_unknown_iff w).2 h
  have huw : u = w := by simpa [hu, encode] using encode_decode w
  rw [hu, huw]

/-! ### The decoded instruction is well-formed -/

/-- A word that decodes to the quirk is 9XYn, and with n = 0 that word decodes to SNE. -/
theorem decode_sneQ {w : Word} {x y n : Nibble} (h : decode w = .sneQ x y n) : n ≠ 0 := by
  rintro rfl
  have hw : wordOfNibbles 0x9#4 x y 0 = w := (congrArg encode h).symm.trans (encode_decode w)
  have hsne : decode w = .sneReg x y := hw ▸ decode_wordOfNibbles 0x9#4 x y 0
  cases hsne.symm.trans h

theorem decode_wf (w : Word) : (decode w).wf = true := by
  cases h : decode w with
  | sneQ x y n => simpa [Instr.wf] using decode_sneQ h
  | unknown u =>
    have hw := (decode_eq_unknown_iff w).1 ⟨u, h⟩
    rw [decode_unknownWord hw] at h
    cases h
    exact hw
  | _ => rfl

/-! ### The decoded word of an instruction, form by form -/

theorem decode_addressForm (a : Nibble) (nnn : Addr) :
    decode (a ++ nnn) = decodeNibbles a (nnn.extractLsb' 8 4) (nnn.extractLsb' 4 4) (nnn.extractLsb' 0 4) := by
  rw [addressForm_eq, decode_wordOfNibbles]

theorem decode_byteForm (a x : Nibble) (nn : Byte) :
    decode (a ++ x ++ nn) = decodeNibbles a x (nn.extractLsb' 4 4) (nn.extractLsb' 0 4) := by
  rw [byteForm_eq, decode_wordOfNibbles]

/-- Each form decodes to the decoder's dispatch on its own nibbles, which the sub-operation nibbles of a pattern (R56)
settle by evaluation. -/
theorem decode_encode {i : Instr} (h : i.wf = true) : decode (encode i) = i := by
  cases i with
  | cls | ret => rfl
  | jp nnn | call nnn | ldI nnn | jpV0 nnn => simp only [encode, decode_addressForm, decodeNibbles, addr_split]
  | seImm x nn | sneImm x nn | ldImm x nn | addImm x nn | rnd x nn =>
    simp only [encode, decode_byteForm, decodeNibbles, byte_split]
  | seReg x y | ldReg x y | orReg x y | andReg x y | xorReg x y | addReg x y | sub x y | shr x y | subn x y
  | shl x y | sneReg x y => exact decode_wordOfNibbles _ x y _
  | drw x y n => exact decode_wordOfNibbles _ x y n
  | sneQ x y n =>
    have hn : n ≠ 0 := by simpa [Instr.wf] using h
    exact (decode_wordOfNibbles 0x9#4 x y n).trans (if_neg hn)
  | skp x | sknp x | ldVxDt x | ldVxK x | ldDtVx x | ldStVx x | addI x | ldF x | ldB x | ldMemVx x | ldVxMem x =>
    exact decode_byteForm _ x _
  | unknown w => exact decode_unknownWord h

/-! ### The opcode map -/

/-- A row matches a word nibble by nibble. -/
theorem OpcodeRow.matches_iff (r : OpcodeRow) (w : Word) :
    r.matches w = true ↔ n0 w &&& n0 r.mask = n0 r.pat ∧ n1 w &&& n1 r.mask = n1 r.pat ∧
      n2 w &&& n2 r.mask = n2 r.pat ∧ n3 w &&& n3 r.mask = n3 r.pat := by
  simp only [n0, n1, n2, n3, ← BitVec.extractLsb'_and, OpcodeRow.matches, beq_iff_eq]
  constructor
  · intro h; simp [h]
  · rintro ⟨h0, h1, h2, h3⟩
    rw [← wordOfNibbles_split (w &&& r.mask), ← wordOfNibbles_split r.pat]
    simp only [n0, n1, n2, n3, h0, h1, h2, h3]

theorem nibble_and_fifteen (x : Nibble) : x &&& 0xF#4 = x := BitVec.and_allOnes

/-- An instruction row that matches is the row of the decoded instruction: its mask covers whole nibbles, and those it
covers are the ones the decoder dispatches on. -/
theorem row_decode_of_matches {r : OpcodeRow} (hr : r ∈ instructionRows) {w : Word} (h : r.matches w = true) :
    (decode w).row = r := by
  obtain ⟨h0, h1, h2, h3⟩ := (r.matches_iff w).1 h
  rw [decode]
  generalize n0 w = a at *
  generalize n1 w = b at *
  generalize n2 w = c at *
  generalize n3 w = d at *
  fin_cases hr
  all_goals
    simp [n0, n1, n2, n3, nibble_and_fifteen] at h0 h1 h2 h3
    subst_vars
    rfl

/-- A word of the 9 family is SNE or its quirk. -/
theorem row_decode_of_matches_quirkRow {w : Word} (h : quirkRow.matches w = true) :
    (decode w).row = ⟨0xF00F, 0x9000⟩ ∨ (decode w).row = quirkRow := by
  have h0 : n0 w = 0x9#4 := by simpa [quirkRow, n0, nibble_and_fifteen] using ((quirkRow.matches_iff w).1 h).1
  rw [decode, h0, decodeNibbles]
  split
  · exact .inl rfl
  · exact .inr rfl

theorem Instr.row_mem_opcodeMap (i : Instr) : i.row ∈ opcodeMap := by
  cases i <;> simp [Instr.row, opcodeMap, instructionRows]

theorem unknownRow_lightest : ∀ r ∈ opcodeMap, unknownRow ≠ r → unknownRow.weight < r.weight := by decide

theorem mem_opcodeMap {r : OpcodeRow} : r ∈ opcodeMap ↔ r ∈ instructionRows ∨ r = quirkRow ∨ r = unknownRow := by
  simp [opcodeMap]

/-- Of the rows that match, the decoded instruction's is the heaviest. -/
theorem weight_lt_row_decode {r : OpcodeRow} (hr : r ∈ opcodeMap) {w : Word} (hm : r.matches w = true)
    (hne : r ≠ (decode w).row) : r.weight < (decode w).row.weight := by
  obtain hr | rfl | rfl := mem_opcodeMap.1 hr
  · exact absurd (row_decode_of_matches hr hm).symm hne
  · obtain hrow | hrow := row_decode_of_matches_quirkRow hm
    · rw [hrow]; decide
    · exact absurd hrow.symm hne
  · exact unknownRow_lightest _ (decode w).row_mem_opcodeMap hne

/-- Every instruction's word matches the instruction's row. -/
theorem row_matches_encode (i : Instr) : Laws.OwnRow.Statement i := by
  cases i
  exacts [Laws.OwnRow.cls, Laws.OwnRow.ret, Laws.OwnRow.jp _, Laws.OwnRow.call _, Laws.OwnRow.seImm _ _,
    Laws.OwnRow.sneImm _ _, Laws.OwnRow.seReg _ _, Laws.OwnRow.ldImm _ _, Laws.OwnRow.addImm _ _,
    Laws.OwnRow.ldReg _ _, Laws.OwnRow.orReg _ _, Laws.OwnRow.andReg _ _, Laws.OwnRow.xorReg _ _,
    Laws.OwnRow.addReg _ _, Laws.OwnRow.sub _ _, Laws.OwnRow.shr _ _, Laws.OwnRow.subn _ _, Laws.OwnRow.shl _ _,
    Laws.OwnRow.sneReg _ _, Laws.OwnRow.sneQ _ _ _, Laws.OwnRow.ldI _, Laws.OwnRow.jpV0 _, Laws.OwnRow.rnd _ _,
    Laws.OwnRow.drw _ _ _, Laws.OwnRow.skp _, Laws.OwnRow.sknp _, Laws.OwnRow.ldVxDt _, Laws.OwnRow.ldVxK _,
    Laws.OwnRow.ldDtVx _, Laws.OwnRow.ldStVx _, Laws.OwnRow.addI _, Laws.OwnRow.ldF _, Laws.OwnRow.ldB _,
    Laws.OwnRow.ldMemVx _, Laws.OwnRow.ldVxMem _, Laws.OwnRow.unknown _]

theorem row_decode_matches (w : Word) : (decode w).row.matches w = true := by
  have h := row_matches_encode (decode w) (decode_wf w)
  rwa [encode_decode] at h

/-! ### The statements -/

/-- Settles O1, form by form; an unknown word is decoded as itself because decoding loses no bit. -/
theorem encodedInstructionDecodesToItself : Obligations.EncodedInstructionDecodesToItself :=
  fun _ => decode_encode

/-- Settles O2. -/
theorem everyWordEncodesItsInstruction : Obligations.EveryWordEncodesItsInstruction :=
  fun w => ⟨decode_wf w, encode_decode w⟩

/-- Settles O3: rows that match one word are all the row of the instruction it decodes to, and so disjoint. -/
theorem decodePicksTheLargestMatchingMask : Obligations.DecodePicksTheLargestMatchingMask := by
  refine ⟨fun w => ⟨(decode w).row_mem_opcodeMap, row_decode_matches w, fun r hr hm hne => ?heaviest⟩,
    fun r hr q hq w hrw hqw => ?disjoint⟩
  case heaviest => exact weight_lt_row_decode hr hm hne
  case disjoint => exact (row_decode_of_matches hr hrw).symm.trans (row_decode_of_matches hq hqw)

/-- Settles O4. -/
theorem unknownWordsAreTheListedFamilies : Obligations.UnknownWordsAreTheListedFamilies :=
  decode_eq_unknown_iff

/-- Settles O5: nine closed words, by evaluating the decoder. -/
theorem sampleWordsDecode : Obligations.SampleWordsDecode := by
  unfold Obligations.SampleWordsDecode
  decide

end Sys2Proof
end

section
/-!
SUPPORT and PROOF. Control flow: jumps, the call stack and skips (spec/40_flow.md R61 to R69). A frame says nothing of
PC, so each instruction's frame is the frame of what it does beside setting PC.
-/

namespace Sys2Proof.Machine

/-! ### Frames of the operations -/

theorem Untouched.refl (f : Footprint) (s : State) : Untouched f s s := by simp [Untouched]

theorem Untouched.setPc {f : Footprint} {s t : State} (h : Untouched f s t) (w : Word) : Untouched f s (t.setPc w) := h

theorem untouched_markUnknown (s : State) : Untouched { debug := true } s s.markUnknown := by simp [Untouched]

theorem untouched_dropTop (s : State) : Untouched { stackPointer := true } s s.dropTop := by simp [Untouched]

/-- A push writes SP and the slot above the old top. -/
theorem untouched_push (s : State) (w : Word) :
    Untouched { stackPointer := true, slot := some (s.sp.toNat + 1) } s (s.push w) := by
  have hslots : ∀ k : Fin 16, s.sp.toNat + 1 ≠ k.val → (s.push w).stack[k.val] = s.stack[k.val] :=
    fun k => Vector.getElem_setIfInBounds_ne k.isLt
  simpa [Untouched, -State.push_stack] using hslots

/-! ### The call stack (R61, R63) -/

/-- The slot a push fills holds the pushed word cut to the slot's width. -/
theorem push_stack_top (s : State) (w : Word) {k : Fin 16} (hk : k.val = s.sp.toNat + 1) :
    (s.push w).stack[k] = slotValue s.params.stackSlotWidth w := by
  simp [← hk]

/-- The return address of a CALL that can be fetched fits a slot of 13 bits or more. -/
theorem returnAddress_fits {pc : Word} {width : Nat} (hwidth : 13 ≤ width) (hpc : pc.toNat ≤ 0xFFE) :
    (pc + 2#16).toNat < 2 ^ width :=
  calc (pc + 2#16).toNat = pc.toNat + 2 := (pc_after_fetchable hpc).1
    _ < 2 ^ 13 := by omega
    _ ≤ 2 ^ width := Nat.pow_le_pow_right (by decide) hwidth

/-- Settles O29: the three cases of RET are SP in 1 to 15, SP = 0 and SP above 15. -/
theorem returnPopsTheStack : Obligations.ReturnPopsTheStack := by
  refine fun s => ⟨fun k hk hpos => ?pop, exec_ret_fault s, exec_ret_absent s⟩
  obtain ⟨k, hlt⟩ := k
  obtain rfl : k = s.sp.toNat := hk
  have hsp : (s.sp - 1#8).toNat + 1 = s.sp.toNat := by
    simp only [BitVec.toNat_sub, BitVec.toNat_ofNat]; omega
  exact ⟨_, exec_ret_ok s hpos.ne' (Nat.le_of_lt_succ hlt), rfl, hsp, (untouched_dropTop s).setPc _⟩

/-- Settles O31: the slot is wide enough for every return address from 13 bits on. -/
theorem callPushesTheReturnAddress : Obligations.CallPushesTheReturnAddress := by
  refine fun s nnn => ⟨fun k hk => ?push, exec_call_fault s nnn⟩
  have hroom : s.sp.toNat < 15 := by omega
  have htop := push_stack_top s (s.pc + 2#16) hk
  refine ⟨_, exec_call_ok s nnn hroom, ?sp, absolute_toNat nnn, ?slot, fun hwidth hpc => ?whole, ?frame⟩
  case sp => exact (push_sp_toNat s (s.pc + 2#16) hroom).trans hk.symm
  case slot => exact (congrArg BitVec.toNat htop).trans (slotValue_toNat _ _)
  case whole => exact htop.trans (slotValue_fits (returnAddress_fits hwidth hpc))
  case frame => rw [hk]; exact (untouched_push s _).setPc _

/-- Settles O32: RET reads the slot CALL filled, and lowers SP by what CALL raised it. -/
theorem returnResumesAfterTheCall : Obligations.ReturnResumesAfterTheCall := by
  intro s nnn hroom hfits
  refine ⟨_, exec_call_ok s nnn hroom, fun t hsp hstack => ?ret⟩
  have hspNat : t.sp.toNat = s.sp.toNat + 1 :=
    (congrArg BitVec.toNat hsp).trans (push_sp_toNat s (s.pc + 2#16) hroom)
  have hle : t.sp.toNat ≤ 15 := by omega
  refine ⟨_, exec_ret_ok t (by omega) hle, ?pc, ?sp⟩
  case pc =>
    have htop := push_stack_top s (s.pc + 2#16) (k := ⟨t.sp.toNat, Nat.lt_succ_of_le hle⟩) hspNat
    calc t.stack[t.sp.toNat] = (s.push (s.pc + 2#16)).stack[t.sp.toNat] := by simp only [hstack, State.setPc_stack]
      _ = slotValue s.params.stackSlotWidth (s.pc + 2#16) := htop
      _ = s.pc + 2#16 := slotValue_fits hfits
  case sp =>
    calc t.sp - 1#8 = s.sp + 1#8 - 1#8 := congrArg (· - 1#8) hsp
      _ = s.sp := BitVec.add_sub_cancel s.sp 1#8

/-! ### Jumps (R62, R64) -/

/-- Settles O30. -/
theorem jumpSetsThePc : Obligations.JumpSetsThePc :=
  fun s nnn => ⟨_, rfl, absolute_toNat nnn, (Untouched.refl {} s).setPc _⟩

/-- Settles O33: 0xFFF + 0xFF does not wrap in 16 bits (`absolutePlusV0_toNat`). -/
theorem jumpWithOffsetAddsV0 : Obligations.JumpWithOffsetAddsV0 :=
  fun s nnn => ⟨_, rfl, absolutePlusV0_toNat nnn s, (Untouched.refl {} s).setPc _⟩

/-! ### Skips (R65 to R69) -/

section
variable (a b : Byte) (s : State)

/-- SE: the skip is taken on equal operands. -/
theorem skipIf_beq : skipIf (a == b) s = .next (s.setPc (s.pc + if a = b then 4#16 else 2#16)) := by
  simp [skipIf_eq]

/-- SNE: the skip is taken on different operands. -/
theorem skipIf_bne : skipIf (a != b) s = .next (s.setPc (s.pc + if a = b then 2#16 else 4#16)) := by
  simp [skipIf_eq]

end

/-- Settles O34. -/
theorem skipsAgainstAByte : Obligations.SkipsAgainstAByte := fun s x nn =>
  have hframe := Untouched.refl {} s
  ⟨⟨_, skipIf_beq (s.getV x) nn s, rfl, hframe.setPc _⟩, ⟨_, skipIf_bne (s.getV x) nn s, rfl, hframe.setPc _⟩⟩

/-- Settles O35. -/
theorem skipsBetweenRegisters : Obligations.SkipsBetweenRegisters := fun s x y =>
  have hframe := Untouched.refl {} s
  ⟨⟨_, skipIf_beq (s.getV x) (s.getV y) s, rfl, hframe.setPc _⟩,
    ⟨_, skipIf_bne (s.getV x) (s.getV y) s, rfl, hframe.setPc _⟩⟩

/-- Settles O36: under noop the quirk word is SNE's skip of the state with the diagnostic raised. -/
theorem quirkWordSkipsAndReports : Obligations.QuirkWordSkipsAndReports := by
  refine fun s x y n => ⟨fun hnoop => ?noop, exec_sneQ_refuse s x y n⟩
  have hskip : exec (.sneQ x y n) s = skipIf (s.getV x != s.getV y) s.markUnknown :=
    (exec_sneQ_noop s x y n hnoop).trans (skipIf_eq _ s.markUnknown).symm
  exact ⟨_, hskip.trans (skipIf_bne _ _ s.markUnknown), rfl, rfl, (untouched_markUnknown s).setPc _⟩

end Sys2Proof.Machine
end

section
/-!
SUPPORT and PROOF. Register loads and the ALU (spec/41_alu.md R70 to R84): instructions that write one register, the
flag tables of R76 to R83, and VF_ORDER's absence where no operand is VF (R72).
-/

namespace Sys2Proof.Machine

/-! ### Instructions that write one register -/

theorem untouched_setV (s : State) (x : Nibble) (w : Byte) : Untouched { regs := [x] } s (s.setV x w) := by
  have hregs : ∀ q, q ≠ x → (s.setV x w).getV q = s.getV q := fun q => s.getV_setV_ne x q w
  simpa [Untouched] using hregs

/-- An instruction that writes w to VX and makes the default advance does that and no more. -/
theorem exec_writesOnly {i : Instr} {s : State} {x : Nibble} {w : Byte} (h : exec i s = continueWith (s.setV x w)) :
    ∃ t, exec i s = .next t ∧ t.getV x = w ∧ t.pc = s.pc + 2#16 ∧ Untouched { regs := [x] } s t :=
  ⟨_, h, s.getV_setV_same x w, rfl, (untouched_setV s x w).setPc _⟩

/-- Settles O38: all three write VX alone. -/
theorem registerLoadsWriteOnlyTheirDestination : Obligations.RegisterLoadsWriteOnlyTheirDestination := by
  intro s x y nn
  obtain ⟨t, hexec, hv, hframe⟩ := exec_writesOnly (i := .addImm x nn) (s := s) rfl
  have hsum : (t.getV x).toNat = ((s.getV x).toNat + nn.toNat) % 256 := hv ▸ BitVec.toNat_add _ _
  exact ⟨exec_writesOnly rfl, ⟨t, hexec, hsum, hframe⟩, exec_writesOnly rfl⟩

/-- A masked byte has no bit outside the mask. -/
theorem and_and_not_self (a m : Byte) : a &&& m &&& ~~~m = 0x00#8 := by
  simp [BitVec.and_assoc]

/-- Settles O46: RND writes VX alone. -/
theorem randomByteIsMasked : Obligations.RandomByteIsMasked := by
  rintro s x nn _ rfl
  obtain ⟨t, hexec, hv, hframe⟩ := exec_writesOnly (i := .rnd x nn) (s := s) rfl
  exact ⟨t, hexec, hv, hv ▸ and_and_not_self s.rand8 nn, hframe⟩

/-! ### The bitwise operations (R76 to R78) -/

theorem writeLogic_clears {s : State} (r : Byte → Byte → Byte) (x y : Nibble) (h : s.params.logicClearsVf = true) :
    writeLogic r x y s = writeFlagged (fun _ _ => 0x00#8) r x y s := if_pos h

theorem writeLogic_keeps {s : State} (r : Byte → Byte → Byte) (x y : Nibble) (h : s.params.logicClearsVf = false) :
    writeLogic r x y s = s.setV x (r (s.getV x) (s.getV y)) := if_neg (Bool.eq_false_iff.1 h)

/-- The three tables at once: r on VX and VY, where a VF already cleared reads as 0. -/
theorem logic_follows_table {i : Instr} {s : State} {x y : Nibble} {a b : Byte} {r : Byte → Byte → Byte}
    (ha : s.getV x = a) (hb : s.getV y = b) (hexec : exec i s = continueWith (writeLogic r x y s))
    {xIsF yIsF bothF : VfOrder → Byte} (hx : xIsF = VfOrder.pick (r 0 b) (r a b) 0)
    (hy : yIsF = VfOrder.pick (r a 0) (r a b) (r a b)) (hboth : bothF = VfOrder.pick (r 0 0) (r a a) 0) :
    (s.params.logicClearsVf = true → FlagTable i s x y (r a b) 0x00#8 xIsF yIsF bothF) ∧
    (s.params.logicClearsVf = false →
      ∃ t, exec i s = .next t ∧ t.getV x = r a b ∧ t.pc = s.pc + 2#16 ∧ Untouched { regs := [x] } s t) := by
  subst ha hb
  refine ⟨fun hclears => ?clears, fun hkeeps => ?keeps⟩
  case clears =>
    rw [writeLogic_clears r x y hclears] at hexec
    exact flagTable_of_writeFlagged i _ r s x y hexec _ _ _ _ _ rfl rfl hx hy fun hxy => hxy ▸ hboth
  case keeps =>
    rw [writeLogic_keeps r x y hkeeps] at hexec
    exact exec_writesOnly hexec

/-- Settles O39: 0 is neutral for OR, and a byte or itself is itself. -/
theorem orFollowsItsTable : Obligations.OrFollowsItsTable := fun _ _ _ _ _ ha hb =>
  logic_follows_table (r := (· ||| ·)) ha hb rfl (by simp) (by simp) (by simp)

/-- Settles O40: 0 annihilates for AND, and a byte and itself is itself. -/
theorem andFollowsItsTable : Obligations.AndFollowsItsTable := fun _ _ _ _ _ ha hb =>
  logic_follows_table (r := (· &&& ·)) ha hb rfl (by simp) (by simp) (by simp)

/-- Settles O41: 0 is neutral for XOR, and a byte xor itself is 0. -/
theorem xorFollowsItsTable : Obligations.XorFollowsItsTable := fun _ _ _ _ _ ha hb =>
  logic_follows_table (r := (· ^^^ ·)) ha hb rfl (by simp) (by simp) (by simp)

/-! ### Sums, differences and shifts (R79 to R83) -/

theorem carryFlag_eq (a b : Byte) : carryFlag a b = if a.toNat + b.toNat > 255 then 0x01#8 else 0x00#8 := by
  simp [carryFlag, flagByte]

theorem noBorrowFlag_eq (a b : Byte) : noBorrowFlag a b = if a.toNat > b.toNat then 0x01#8 else 0x00#8 := by
  simp [noBorrowFlag, flagByte]

/-- Equal operands set no flag. -/
theorem noBorrowFlag_self (a : Byte) : noBorrowFlag a a = 0x00#8 := by simp [noBorrowFlag_eq]

/-- Settles O42: with X = Y = F the flag or the byte is doubled. -/
theorem addFollowsItsTable : Obligations.AddFollowsItsTable := by
  rintro s x y _ _ _ rfl rfl rfl
  refine flagTable_of_writeFlagged _ carryFlag (· + ·) s x y rfl _ _ _ _ _ rfl (carryFlag_eq _ _).symm rfl rfl ?both
  case both => rintro rfl; simp only [two_mul]

/-- Settles O43: with X = Y the operands are equal, so difference and flag are 0. -/
theorem subtractionsFollowTheirTables : Obligations.SubtractionsFollowTheirTables := by
  rintro s x y _ _ f g rfl rfl hf hg
  rw [← noBorrowFlag_eq] at hf hg
  refine ⟨flagTable_of_writeFlagged _ noBorrowFlag (· - ·) s x y rfl _ _ _ _ _ rfl hf rfl rfl ?sub,
    flagTable_of_writeFlagged _ (fun a b => noBorrowFlag b a) (fun a b => b - a) s x y rfl _ _ _ _ _ rfl hg rfl rfl
      ?subn⟩
  case sub => rintro rfl; simp [hf, noBorrowFlag_self]
  case subn => rintro rfl; simp [hg, noBorrowFlag_self]

theorem shiftOutLow_toNat (b : Byte) : (shiftOutLow b).toNat = b.toNat % 2 := by
  simp [shiftOutLow, Nat.and_one_is_mod]

theorem shiftOutHigh_toNat (b : Byte) : (shiftOutHigh b).toNat = b.toNat / 128 := by
  simp [shiftOutHigh, Nat.shiftRight_eq_div_pow]

theorem shiftRight_one_toNat (b : Byte) : (b >>> 1).toNat = b.toNat / 2 := by
  simp [Nat.shiftRight_eq_div_pow]

theorem shiftLeft_one_eq_two_mul (b : Byte) : b <<< 1 = 2 * b := by
  rw [BitVec.shiftLeft_eq_mul_twoPow, BitVec.mul_comm]; rfl

theorem shiftLeft_one_toNat (b : Byte) : (b <<< 1).toNat = 2 * b.toNat % 256 :=
  (congrArg BitVec.toNat (shiftLeft_one_eq_two_mul b)).trans (BitVec.toNat_mul 2 b)

/-- Bit 0 alone leaves nothing when it is shifted out. -/
theorem shiftOutLow_shiftRight_one (b : Byte) : shiftOutLow b >>> 1 = 0 := by
  apply BitVec.eq_of_toNat_eq
  rw [shiftRight_one_toNat, shiftOutLow_toNat]
  exact Nat.div_eq_of_lt (Nat.mod_lt _ Nat.two_pos)

/-- Settles O44: the source is VY, so what is shifted is the flag only where VF is VY and is read again. -/
theorem shiftsFollowTheirTables : Obligations.ShiftsFollowTheirTables := by
  rintro s x y _ lo hi half twice rfl hlo hhi hhalf htwice
  obtain rfl := BitVec.eq_of_toNat_eq (hlo.trans (shiftOutLow_toNat _).symm)
  obtain rfl := BitVec.eq_of_toNat_eq (hhi.trans (shiftOutHigh_toNat _).symm)
  obtain rfl := BitVec.eq_of_toNat_eq (hhalf.trans (shiftRight_one_toNat _).symm)
  obtain rfl := BitVec.eq_of_toNat_eq (htwice.trans (shiftLeft_one_toNat _).symm)
  refine ⟨flagTable_of_writeFlagged _ (fun _ b => shiftOutLow b) (fun _ b => b >>> 1) s x y rfl _ _ _ _ _
      rfl rfl rfl ?shrY fun _ => ?shrBoth,
    flagTable_of_writeFlagged _ (fun _ b => shiftOutHigh b) (fun _ b => b <<< 1) s x y rfl _ _ _ _ _
      rfl rfl rfl ?shlY fun _ => ?shlBoth⟩
  case shrY | shrBoth => simp only [shiftOutLow_shiftRight_one]
  case shlY | shlBoth => simp only [shiftLeft_one_eq_two_mul]

/-! ### VF_ORDER where neither operand is VF (R72) -/

/-- The state under another VF_ORDER. -/
def State.setVfOrder (s : State) (o : VfOrder) : State := { s with params := { s.params with vfOrder := o } }

/-- Writes of two registers commute. -/
theorem State.setV_comm (s : State) {p q : Nibble} (a b : Byte) (h : p ≠ q) :
    (s.setV p a).setV q b = (s.setV q b).setV p a := by
  have hne : p.toNat ≠ q.toNat := fun e => h (BitVec.eq_of_toNat_eq e)
  simp only [State.setV, Vector.set_comm a b hne]

/-- Without VF among the operands all three orders write the latched flag and the latched result. -/
theorem writeFlagged_eq_latched (f r : Byte → Byte → Byte) {x y : Nibble} (s : State) (hx : x ≠ vf) (hy : y ≠ vf) :
    writeFlagged f r x y s = (s.setV vf (f (s.getV x) (s.getV y))).setV x (r (s.getV x) (s.getV y)) := by
  unfold writeFlagged
  cases s.params.vfOrder with
  | sequential => simp only [State.getV_setV_ne _ _ _ _ hx, State.getV_setV_ne _ _ _ _ hy]
  | latchedVfFirst => rfl
  | latchedVfLast => exact s.setV_comm _ _ hx

section
variable {x y : Nibble} (s : State) (o : VfOrder)

theorem writeFlagged_setVfOrder (f r : Byte → Byte → Byte) (hx : x ≠ vf) (hy : y ≠ vf) :
    writeFlagged f r x y (s.setVfOrder o) = (writeFlagged f r x y s).setVfOrder o := by
  rw [writeFlagged_eq_latched f r _ hx hy, writeFlagged_eq_latched f r _ hx hy]; rfl

theorem writeLogic_setVfOrder (r : Byte → Byte → Byte) (hx : x ≠ vf) (hy : y ≠ vf) :
    writeLogic r x y (s.setVfOrder o) = (writeLogic r x y s).setVfOrder o := by
  cases hp : s.params.logicClearsVf with
  | true =>
    rw [writeLogic_clears r x y hp, writeLogic_clears (s := s.setVfOrder o) r x y hp]
    exact writeFlagged_setVfOrder s o _ r hx hy
  | false =>
    rw [writeLogic_keeps r x y hp, writeLogic_keeps (s := s.setVfOrder o) r x y hp]; rfl

/-- An instruction whose effect does not see VF_ORDER answers the same under every VF_ORDER. -/
theorem exec_setVfOrder {i : Instr} {effect : State → State} (hexec : ∀ u, exec i u = continueWith (effect u))
    (heffect : effect (s.setVfOrder o) = (effect s).setVfOrder o) :
    ∃ t, exec i s = .next t ∧
      exec i (s.setVfOrder o) = .next { t with params := { s.params with vfOrder := o } } := by
  have hparams : (effect s).advance.params = s.params := exec_next_params (hexec s)
  refine ⟨_, hexec s, ?_⟩
  rw [hexec, heffect, ← hparams]
  rfl

end

/-- Settles O45: each flag producer is one `writeLogic` or one `writeFlagged`. -/
theorem vfOrderShowsOnlyThroughVf : Obligations.VfOrderShowsOnlyThroughVf := by
  intro x y i s o hx hy
  have logic {i r} (hexec : ∀ u, exec i u = continueWith (writeLogic r x y u)) :=
    exec_setVfOrder s o hexec (writeLogic_setVfOrder s o r hx hy)
  have flagged {i f r} (hexec : ∀ u, exec i u = continueWith (writeFlagged f r x y u)) :=
    exec_setVfOrder s o hexec (writeFlagged_setVfOrder s o f r hx hy)
  revert i
  simp only [flagProducers, List.forall_mem_cons]
  exact ⟨logic fun _ => rfl, logic fun _ => rfl, logic fun _ => rfl, flagged fun _ => rfl, flagged fun _ => rfl,
    flagged fun _ => rfl, flagged fun _ => rfl, flagged fun _ => rfl, nofun⟩

end Sys2Proof.Machine
end

section
/-!
SUPPORT and PROOF. The index register and the memory transfers (spec/42_index_memory.md R86 to R91): each instruction
is made of a write of I, a write of a run of bytes and a write of a run of registers, and its frame of theirs.
-/

namespace Sys2Proof.Machine

/-! ### Frames of the operations -/

/-- A write of I adds I to the footprint. -/
theorem Untouched.setI {f : Footprint} {s t : State} (h : Untouched f s t) (w : Word) :
    Untouched { f with index := true } s (t.setI w) := by
  obtain ⟨hregs, -, hrest⟩ := h
  exact ⟨hregs, nofun, hrest⟩

/-- Bytes stored inside MEM leave every other byte. -/
theorem untouched_setBytes {s : State} {base : Nat} {xs : List Byte} (hfits : base + xs.length ≤ Config.memSize)
    (hwf : Memory.wf s.mem = true) :
    Untouched { storeBase := base, storeLen := xs.length } s (s.setMem (Memory.setBytes s.mem base xs)) := by
  have hbytes : ∀ a, ¬(base ≤ a ∧ a < base + xs.length) →
      Memory.get (Memory.setBytes s.mem base xs) a = Memory.get s.mem a := fun a ha =>
    (Memory.get_setBytes a hfits hwf).trans (if_neg ha)
  simpa [Untouched] using hbytes

/-- As many bytes as V0 to VX are, written from V0 up, leave the registers above X. -/
theorem untouched_setRegsFrom (s : State) {x : Nibble} {xs : List Byte} (hlen : xs.length = regCount x) :
    Untouched { regs := regsUpTo x } s (s.setRegsFrom 0 xs) := by
  have hregs : ∀ r, r ∉ regsUpTo x → (s.setRegsFrom 0 xs).getV r = s.getV r := by
    intro r hr
    rw [mem_regsUpTo] at hr
    rw [State.setRegsFrom_getV, if_neg (by rw [hlen, regCount]; omega)]
  refine ⟨hregs, ?_⟩
  rw [State.setRegsFrom_eq]
  simp

/-! ### The values written -/

/-- The highest glyph address, of VX = 255, does not wrap. -/
theorem glyphAddress_toNat (b : Byte) : (glyphAddress b).toNat = 0x050 + 5 * b.toNat := by
  have hbyte := b.isLt
  simp only [glyphAddress, BitVec.toNat_add, BitVec.toNat_mul, BitVec.toNat_setWidth, BitVec.toNat_ofNat]
  omega

theorem indexAfter_toNat (x : Nibble) (s : State) :
    (indexAfter x s).toNat = (s.i.toNat + x.toNat + 1) % 65536 := by
  simp [indexAfter, regCount, Nat.add_assoc]

theorem bcdDigits_toNat (b : Byte) :
    (bcdDigits b).map BitVec.toNat = [b.toNat / 100, b.toNat / 10 % 10, b.toNat % 10] := by
  simp [bcdDigits]

/-- The byte at I + k after the three digits of b were stored at I. -/
theorem get_storedDigits {s : State} (b : Byte) (hwf : Memory.wf s.mem = true)
    (hfits : indexBase s + (bcdDigits b).length ≤ Config.memSize) (k : Nat) (hk : k < 3) :
    (Memory.get (Memory.setBytes s.mem (indexBase s) (bcdDigits b)) (indexBase s + k)).toNat =
      [b.toNat / 100, b.toNat / 10 % 10, b.toNat % 10].getD k 0 := by
  rw [Memory.get_setBytes _ hfits hwf, bcdDigits_length, if_pos (by omega), Nat.add_sub_cancel_left,
    ← bcdDigits_toNat]
  exact (List.getD_map (bcdDigits b) 0#8 BitVec.toNat).symm

/-- Vk after V0 to VX were loaded from a memory at a base. -/
theorem getV_loadedRegs (s : State) (m : Memory) (base : Nat) {x k : Nibble} (hk : k.toNat ≤ x.toNat) :
    (s.setRegsFrom 0 (Memory.getBytes m base (regCount x))).getV k = Memory.get m (base + k.toNat) := by
  have hcount : k.toNat < regCount x := Nat.lt_succ_of_le hk
  rw [State.setRegsFrom_getV, Memory.getBytes_length, if_pos hcount, List.getD_eq_getElem?_getD,
    Memory.getBytes_getElem? m _ _ _ hcount, Option.getD_some]

/-! ### The index register (R86 to R88) -/

/-- An instruction that writes w to I and makes the default advance does that and no more. -/
theorem exec_setsIndex {i : Instr} {s : State} {w : Word} (h : exec i s = continueWith (s.setI w)) {n : Nat}
    (hw : w.toNat = n) :
    ∃ t, exec i s = .next t ∧ t.i.toNat = n ∧ t.pc = s.pc + 2#16 ∧ Untouched { index := true } s t :=
  ⟨_, h, hw, rfl, ((Untouched.refl {} s).setI w).setPc _⟩

/-- Settles O47. -/
theorem indexRegisterLoads : Obligations.IndexRegisterLoads := fun s x nnn =>
  ⟨exec_setsIndex rfl (absolute_toNat nnn), exec_setsIndex rfl (glyphAddress_toNat (s.getV x))⟩

/-- Settles O48. -/
theorem addToIndexRegister : Obligations.AddToIndexRegister := by
  intro s x
  have hsum : (s.i + zext16 (s.getV x)).toNat = (s.i.toNat + (s.getV x).toNat) % 65536 := by simp
  exact exec_setsIndex rfl hsum

/-! ### Memory transfers (R89 to R91) -/

/-- Settles O49: the digits are three stored bytes; a store that does not fit faults before it writes. -/
theorem bcdStoresThreeDigits : Obligations.BcdStoresThreeDigits := by
  refine fun s x hwf => ⟨fun hfits => ?stores, exec_ldB_fault s x⟩
  have hmem : indexBase s + (bcdDigits (s.getV x)).length ≤ Config.memSize := by
    rw [bcdDigits_length, Config.memSize]; omega
  have hdigit := get_storedDigits (s.getV x) hwf hmem
  exact ⟨_, exec_ldB_ok s x hfits, hdigit 0 (by decide), hdigit 1 (by decide), hdigit 2 (by decide), rfl,
    (untouched_setBytes hmem hwf).setPc _⟩

/-- Settles O50: byte k of the store is Vk (`get_storedRegs`). -/
theorem blockStoreWritesV0ToVx : Obligations.BlockStoreWritesV0ToVx := by
  refine fun s x hwf => ⟨fun hfits => ?stores, exec_ldMemVx_fault s x⟩
  have hlen := firstRegs_regCount_length s x
  have hmem : indexBase s + (s.firstRegs (regCount x)).length ≤ Config.memSize := by
    rw [hlen, Config.memSize]; omega
  have hframe := (untouched_setBytes hmem hwf).setI (indexAfter x s)
  rw [hlen] at hframe
  exact ⟨_, exec_ldMemVx_ok s x hfits, fun k hk => get_storedRegs hwf hfits hk, indexAfter_toNat x s, rfl,
    hframe.setPc _⟩

/-- Settles O51: register k of the load is byte k (`getV_loadedRegs`). -/
theorem blockLoadReadsV0ToVx : Obligations.BlockLoadReadsV0ToVx := by
  refine fun s x => ⟨fun hfits => ?loads, exec_ldVxMem_fault s x⟩
  have hlen := Memory.getBytes_length s.mem (regCount x) (indexBase s)
  have hpc := congrArg (· + 2#16) (State.setRegsFrom_pc s 0 (Memory.getBytes s.mem (indexBase s) (regCount x)))
  exact ⟨_, exec_ldVxMem_ok s x hfits, fun k hk => getV_loadedRegs s s.mem (indexBase s) hk, indexAfter_toNat x s,
    hpc, ((untouched_setRegsFrom s hlen).setI _).setPc _⟩

/-- Settles O52: the load reads the bytes the store left at the same base, and these are the stored registers. -/
theorem blockLoadInvertsBlockStore : Obligations.BlockLoadInvertsBlockStore := by
  intro s x hwf hfits
  refine ⟨_, exec_ldMemVx_ok s x hfits, fun regs =>
    ⟨_, exec_ldVxMem_ok _ x hfits, fun k hk => ?restored, rfl, ?mem⟩⟩
  case restored => exact (getV_loadedRegs _ _ _ hk).trans (get_storedRegs hwf hfits hk)
  case mem => exact State.setRegsFrom_mem _ _ _

end Sys2Proof.Machine
end

section
/-!
SUPPORT and PROOF. The display (spec/43_display.md R93 to R97): what a drawing does to the whole grid is said once, for
any set of sprite bits (`Drawing.Draws`); a bit, a row and a sprite draw their bits, the larger made of the smaller,
and DXYN draws the sprite of `spriteBit`.
-/

namespace Sys2Proof.Machine

/-! ### Drawing a set of bits -/

/-- Whether one of the bits falls on a pixel that is on. -/
def Framebuffer.HitBy (fb : Framebuffer) (bits : Nat → Nat → Bool) : Prop :=
  ∃ px py, px < 64 ∧ py < 32 ∧ Framebuffer.pixel fb px py = true ∧ bits px py = true

/-- From d to e the bits were drawn, each of them once: every pixel of the grid is XORed with the bit there, and a
collision is added exactly if one of them fell on a pixel that was on (R95). -/
structure Drawing.Draws (bits : Nat → Nat → Bool) (d e : Drawing) : Prop where
  pixel : ∀ px py, px < 64 → py < 32 →
    Framebuffer.pixel e.fb px py = (Framebuffer.pixel d.fb px py ^^ bits px py)
  collided : e.collided = true ↔ d.collided = true ∨ Framebuffer.HitBy d.fb bits

theorem Drawing.draws_nothing (d : Drawing) : Drawing.Draws (fun _ _ => false) d d where
  pixel := by simp
  collided := by simp [Framebuffer.HitBy]

theorem Framebuffer.hitBy_or (fb : Framebuffer) (f g : Nat → Nat → Bool) :
    Framebuffer.HitBy fb (fun px py => f px py || g px py) ↔ Framebuffer.HitBy fb f ∨ Framebuffer.HitBy fb g := by
  simp only [Framebuffer.HitBy, Bool.or_eq_true, and_or_left, exists_or]

section
variable {f g : Nat → Nat → Bool} {d e k : Drawing} (hf : Drawing.Draws f d e)
  (hdisjoint : ∀ px py, g px py = true → f px py = false)
include hf hdisjoint

/-- Bits hit a drawing as they hit it before others were drawn. -/
theorem Drawing.Draws.hitBy_iff : Framebuffer.HitBy e.fb g ↔ Framebuffer.HitBy d.fb g := by
  refine exists₂_congr fun px py => and_congr_right fun hx => and_congr_right fun hy =>
    and_congr_left fun hbit => ?_
  rw [hf.pixel px py hx hy, hdisjoint px py hbit, Bool.xor_false]

/-- Drawing disjoint bits one after the other draws them all. -/
theorem Drawing.Draws.trans (hg : Drawing.Draws g e k) : Drawing.Draws (fun px py => f px py || g px py) d k where
  pixel px py hx hy := by
    rw [hg.pixel px py hx hy, hf.pixel px py hx hy, Bool.xor_assoc]
    cases hbit : g px py with
    | false => simp
    | true => simp [hdisjoint px py hbit]
  collided := by rw [hg.collided, hf.collided, hf.hitBy_iff hdisjoint, Framebuffer.hitBy_or, or_assoc]

end

/-! ### A bit, a row, a sprite -/

/-- One sprite bit at (x, y). -/
def dotBits (x y : Nat) (bit : Bool) (px py : Nat) : Bool := bit && decide (px = x) && decide (py = y)

theorem draws_plot (x y : Nat) (bit : Bool) (d : Drawing) : Drawing.Draws (dotBits x y bit) d (plot x y bit d) where
  pixel px py hx hy := plot_pixel x y px py bit d hx hy
  collided := by
    have hhit : Framebuffer.HitBy d.fb (dotBits x y bit) ↔ bit = true ∧ Framebuffer.pixel d.fb x y = true := by
      constructor
      · rintro ⟨px, py, -, -, hon, hbit⟩
        simp only [dotBits, Bool.and_eq_true, decide_eq_true_eq] at hbit
        obtain ⟨⟨hbit, rfl⟩, rfl⟩ := hbit
        exact ⟨hbit, hon⟩
      · rintro ⟨hbit, hon⟩
        have hin : x < 64 ∧ y < 32 := by
          by_contra hout
          simp [Framebuffer.pixel_outside d.fb x y hout] at hon
        exact ⟨x, y, hin.1, hin.2, hon, by simp [dotBits, hbit]⟩
    rw [plot_collided, hhit, Bool.or_eq_true, Bool.and_eq_true]

/-- The first w columns of a sprite row at (x0, y): column c is bit 7 - c of the byte (R93). -/
def rowBits (row : Byte) (x0 y w px py : Nat) : Bool :=
  decide (x0 ≤ px ∧ px < x0 + w ∧ py = y) && row.getLsbD (7 - (px - x0))

theorem rowBits_zero (row : Byte) (x0 y : Nat) : rowBits row x0 y 0 = fun _ _ => false := by
  funext px py
  have hcols : ¬(x0 ≤ px ∧ px < x0 + 0 ∧ py = y) := by omega
  rw [rowBits, decide_eq_false hcols, Bool.false_and]

theorem rowBits_succ (row : Byte) (x0 y w : Nat) :
    rowBits row x0 y (w + 1) =
      fun px py => rowBits row x0 y w px py || dotBits (x0 + w) y (row.getLsbD (7 - w)) px py := by
  funext px py
  by_cases hlast : px = x0 + w
  · subst hlast
    simp [rowBits, dotBits, Bool.and_comm]
  · have hcols : (x0 ≤ px ∧ px < x0 + (w + 1) ∧ py = y) ↔ (x0 ≤ px ∧ px < x0 + w ∧ py = y) := by omega
    simp [rowBits, dotBits, hlast, hcols]

/-- The columns of a row are drawn one after the other. -/
theorem draws_columns (x0 y : Nat) (row : Byte) (d : Drawing) (w : Nat) :
    Drawing.Draws (rowBits row x0 y w) d
      ((List.range w).foldl (fun d c => plot (x0 + c) y (row.getLsbD (7 - c)) d) d) := by
  induction w with
  | zero =>
    rw [rowBits_zero]
    exact d.draws_nothing
  | succ w ih =>
    have hdisjoint : ∀ px py, dotBits (x0 + w) y (row.getLsbD (7 - w)) px py = true →
        rowBits row x0 y w px py = false := by
      intro px py hdot
      simp only [dotBits, Bool.and_eq_true, decide_eq_true_eq] at hdot
      simp [rowBits, hdot]
    rw [List.range_succ, List.foldl_append, rowBits_succ]
    exact ih.trans hdisjoint (draws_plot _ _ _ _)

theorem draws_plotRow (x0 y : Nat) (row : Byte) (d : Drawing) :
    Drawing.Draws (rowBits row x0 y 8) d (plotRow x0 y row d) := draws_columns x0 y row d 8

theorem spriteBit_zero (m : Memory) (base x0 y0 : Nat) : spriteBit m base 0 x0 y0 = fun _ _ => false := by
  funext px py
  have hrows : ¬(x0 ≤ px ∧ px < x0 + 8 ∧ y0 ≤ py ∧ py < y0 + 0) := by omega
  rw [spriteBit, decide_eq_false hrows, Bool.false_and]

/-- A sprite is its first row above the sprite of the rows left. -/
theorem spriteBit_succ (m : Memory) (base n x0 y0 : Nat) :
    spriteBit m base (n + 1) x0 y0 =
      fun px py => rowBits (Memory.get m base) x0 y0 8 px py || spriteBit m (base + 1) n x0 (y0 + 1) px py := by
  funext px py
  by_cases hfirst : py = y0
  · subst hfirst
    simp [spriteBit, rowBits]
  · have hrows : (x0 ≤ px ∧ px < x0 + 8 ∧ y0 ≤ py ∧ py < y0 + (n + 1)) ↔
        (x0 ≤ px ∧ px < x0 + 8 ∧ y0 + 1 ≤ py ∧ py < y0 + 1 + n) := by omega
    by_cases hbelow : y0 + 1 ≤ py
    · have haddr : base + (py - y0) = base + 1 + (py - (y0 + 1)) := by omega
      simp [spriteBit, rowBits, hfirst, hrows, haddr]
    · simp [spriteBit, rowBits, hfirst, hrows, hbelow]

/-- The rows of a sprite are drawn one after the other, each below the last. -/
theorem draws_plotRows (m : Memory) (x0 n : Nat) : ∀ (base y0 : Nat) (d : Drawing),
    Drawing.Draws (spriteBit m base n x0 y0) d (plotRows x0 y0 (Memory.getBytes m base n) d) := by
  induction n with
  | zero =>
    intro base y0 d
    rw [spriteBit_zero]
    exact d.draws_nothing
  | succ n ih =>
    intro base y0 d
    have hdisjoint : ∀ px py, spriteBit m (base + 1) n x0 (y0 + 1) px py = true →
        rowBits (Memory.get m base) x0 y0 8 px py = false := by
      intro px py hrest
      simp only [spriteBit, Bool.and_eq_true, decide_eq_true_eq] at hrest
      have hne : py ≠ y0 := by omega
      simp [rowBits, hne]
    rw [spriteBit_succ]
    exact (draws_plotRow x0 y0 _ d).trans hdisjoint (ih _ _ _)

/-! ### The operands of DXYN (R94, R97) -/

theorem coordinateState_getV (s : State) (r : Nibble) : ((coordinateState s).getV r).toNat = coordinate s r := by
  unfold coordinateState coordinate
  cases s.params.vfOrder with
  | sequential => by_cases hr : r = vf <;> simp [hr]
  | latchedVfFirst => simp
  | latchedVfLast => simp

theorem spriteOrigin_eq (x y : Nibble) (s : State) :
    spriteOrigin x y s = (coordinate s x % 64, coordinate s y % 32) := by
  rw [spriteOrigin, coordinateState_getV, coordinateState_getV]

/-- The bits of the sprite DXYN draws. -/
def spriteBits (s : State) (x y n : Nibble) : Nat → Nat → Bool :=
  spriteBit s.mem (indexBase s) n.toNat (coordinate s x % 64) (coordinate s y % 32)

/-- DXYN draws the bits of its sprite on the grid, with no collision before. -/
theorem draws_drawn (x y n : Nibble) (s : State) :
    Drawing.Draws (spriteBits s x y n) { fb := s.fb, collided := false } (drawn x y n s) := by
  rw [drawn, spriteOrigin_eq]
  exact draws_plotRows s.mem _ n.toNat _ _ _

theorem drawn_collided_iff (x y n : Nibble) (s : State) :
    (drawn x y n s).collided = true ↔ Framebuffer.HitBy s.fb (spriteBits s x y n) :=
  (draws_drawn x y n s).collided.trans (by simp)

theorem flagByte_eq_one_iff (b : Bool) : flagByte b = 0x01#8 ↔ b = true := by cases b <;> decide

/-- A coordinate read from a register other than VF is the register, under every VF_ORDER. -/
theorem coordinate_of_ne_vf (s : State) {r : Nibble} (hr : r ≠ vf) : coordinate s r = (s.getV r).toNat :=
  if_neg fun h => hr h.1

/-! ### The state a draw leaves -/

section
variable (s : State) (x y n : Nibble)

theorem completed_drw_getV_vf : (completed (.drw x y n) s).getV vf = flagByte (drawn x y n s).collided :=
  State.getV_setV_same (s.setFb (drawn x y n s).fb) vf _

theorem completed_drw_pixel {px py : Nat} (hpx : px < 64) (hpy : py < 32) :
    Framebuffer.pixel (completed (.drw x y n) s).fb px py =
      (Framebuffer.pixel s.fb px py ^^ spriteBits s x y n px py) :=
  (draws_drawn x y n s).pixel px py hpx hpy

end

section
variable (s : State) {x y : Nibble} (n : Nibble) (hx : x ≠ vf) (hy : y ≠ vf)
include hx hy

/-- With no coordinate in VF, the same draw has the same sprite again. -/
theorem spriteBits_completed_drw : spriteBits (completed (.drw x y n) s) x y n = spriteBits s x y n := by
  have hkept : ∀ r, r ≠ vf → coordinate (completed (.drw x y n) s) r = coordinate s r := fun r hr => by
    rw [coordinate_of_ne_vf _ hr, coordinate_of_ne_vf _ hr]
    exact congrArg BitVec.toNat (State.getV_setV_ne _ vf r _ hr)
  rw [spriteBits, spriteBits, hkept x hx, hkept y hy]
  rfl

/-- A pixel XORed twice with the same bit is the pixel. -/
theorem completed_drw_twice_fb : (completed (.drw x y n) (completed (.drw x y n) s)).fb = s.fb :=
  Framebuffer.ext_pixel fun px py hpx hpy => by
    rw [completed_drw_pixel _ _ _ _ hpx hpy, spriteBits_completed_drw s n hx hy, completed_drw_pixel _ _ _ _ hpx hpy,
      Bool.xor_assoc, Bool.xor_self, Bool.xor_false]

/-- The second draw finds a pixel under a 1 bit on exactly if the first found it off. -/
theorem drawn_completed_drw_collided_iff :
    (drawn x y n (completed (.drw x y n) s)).collided = true ↔
      ∃ px py, px < 64 ∧ py < 32 ∧ Framebuffer.pixel s.fb px py = false ∧ spriteBits s x y n px py = true := by
  rw [drawn_collided_iff, spriteBits_completed_drw s n hx hy]
  refine exists₂_congr fun px py => and_congr_right fun hpx => and_congr_right fun hpy =>
    and_congr_left fun hbit => ?_
  rw [completed_drw_pixel _ _ _ _ hpx hpy, hbit, Bool.xor_true, Bool.not_eq_true']

end

/-! ### CLS and DRW (R96, R97) -/

/-- A write of the grid adds the grid to the footprint. -/
theorem Untouched.setFb {f : Footprint} {s t : State} (h : Untouched f s t) (fb : Framebuffer) :
    Untouched { f with display := true } s (t.setFb fb) := by
  obtain ⟨hregs, hi, hsp, hstack, hdt, hst, -, hrest⟩ := h
  exact ⟨hregs, hi, hsp, hstack, hdt, hst, nofun, hrest⟩

/-- Settles O54. -/
theorem clearTurnsEveryPixelOff : Obligations.ClearTurnsEveryPixelOff := fun s =>
  ⟨_, rfl, fun x y _ _ => Framebuffer.pixel_blank x y, rfl, ((Untouched.refl {} s).setFb _).setPc _⟩

/-- Settles O55: the grid and the flag are those of drawing the sprite's bits (`draws_drawn`). -/
theorem drawXorsTheSprite : Obligations.DrawXorsTheSprite := by
  rintro s x y n _ _ rfl rfl
  refine ⟨fun hfits => ?draws, exec_drw_fault s x y n⟩
  have hflag := completed_drw_getV_vf s x y n
  refine ⟨_, exec_drw_ok s x y n hfits, fun px py => completed_drw_pixel s x y n, fun hhit => ?collision,
    fun hclear => ?none, rfl, ((untouched_setV s vf _).setFb _).setPc _⟩
  case collision =>
    have hcollided : (drawn x y n s).collided = true := (drawn_collided_iff x y n s).2 hhit
    exact hflag.trans (congrArg flagByte hcollided)
  case none =>
    have hcollided : (drawn x y n s).collided = false := by
      rw [Bool.eq_false_iff, Ne, drawn_collided_iff]
      rintro ⟨px, py, hx, hy, hon, hbit⟩
      exact Bool.false_ne_true ((hclear px py hx hy hbit).symm.trans hon)
    exact hflag.trans (congrArg flagByte hcollided)

/-- Settles O56: both draws complete, the first leaving the range of the second as it was. -/
theorem drawingTwiceRestoresTheScreen : Obligations.DrawingTwiceRestoresTheScreen := by
  intro s x y n hx hy hfits
  refine ⟨_, _, exec_drw_ok s x y n hfits, exec_drw_ok (completed (.drw x y n) s) x y n hfits,
    completed_drw_twice_fb s n hx hy, ?flag⟩
  rw [← coordinate_of_ne_vf s hx, ← coordinate_of_ne_vf s hy]
  calc (completed (.drw x y n) (completed (.drw x y n) s)).getV vf = 0x01#8
      ↔ (drawn x y n (completed (.drw x y n) s)).collided = true := by
        rw [completed_drw_getV_vf, flagByte_eq_one_iff]
    _ ↔ _ := drawn_completed_drw_collided_iff s n hx hy

end Sys2Proof.Machine
end

section
/-!
SUPPORT and PROOF. The input latch and the timer registers (spec/44_input_timers.md R98 to R104): FX0A is its two cases
of the key mux, EX9E and EXA1 are one skip taken on opposite values of a latch bit, and the timer accesses are writes
of one byte.
-/

namespace Sys2Proof.Machine

/-! ### LD Vx, K (R101) -/

/-- Settles O58: a latch with a bit set is one whose key mux answers (`keyPick?_none`, `keyPick?_some`). -/
theorem keyWaitStoresAPressedKey : Obligations.KeyWaitStoresAPressedKey := by
  refine fun s x => ⟨fun hnone => exec_ldVxK_wait s x (keyPick?_none s hnone), fun hsome => ?stored⟩
  obtain ⟨k, hpick, hk16, hdown, hlowest⟩ := keyPick?_some s hsome
  obtain ⟨t, hexec, hwritten⟩ := exec_writesOnly (exec_ldVxK_key s x k hpick)
  exact ⟨k, t, hexec, hk16, hdown, hlowest, hwritten⟩

/-! ### SKP and SKNP (R99, R100) -/

/-- SKNP is SKP with the two distances exchanged. -/
theorem exec_sknp_down (s : State) (x : Nibble) (h : (s.getV x).toNat ≤ 15) :
    exec (.sknp x) s = .next (s.setPc (s.pc + if s.latch.getLsbD (s.getV x).toNat then 2#16 else 4#16)) := by
  rw [exec_sknp_ok s x h]
  cases s.latch.getLsbD (s.getV x).toNat <;> rfl

/-- Settles O57: with VX at most 15 both only set PC, above 15 both raise KEY_RANGE. -/
theorem keySkipsReadTheLatch : Obligations.KeySkipsReadTheLatch := by
  rintro s x _ rfl
  have hframe := Untouched.refl {} s
  exact ⟨fun h => ⟨⟨_, exec_skp_ok s x h, rfl, hframe.setPc _⟩, ⟨_, exec_sknp_down s x h, rfl, hframe.setPc _⟩⟩,
    fun h => ⟨exec_skp_fault s x h, exec_sknp_fault s x h⟩⟩

/-! ### The timer registers (R102 to R104) -/

theorem untouched_setDt (s : State) (w : Byte) : Untouched { delay := true } s (s.setDt w) := by simp [Untouched]

theorem untouched_setSt (s : State) (w : Byte) : Untouched { sound := true } s (s.setSt w) := by simp [Untouched]

/-- Settles O59: each is one byte written and the default advance. -/
theorem timerAccessMovesOneByte : Obligations.TimerAccessMovesOneByte := fun s x =>
  ⟨exec_writesOnly rfl,
    ⟨_, rfl, rfl, rfl, (untouched_setDt s (s.getV x)).setPc _⟩,
    ⟨_, rfl, rfl, rfl, (untouched_setSt s (s.getV x)).setPc _⟩⟩

end Sys2Proof.Machine
end

section
/-!
SUPPORT and PROOF. Faults, the unknown word and the governor's account of elapsed time (spec/60_exceptions.md R107,
R109, R110, R116, R117): where the fault table is silent an instruction completes, is refused or waits, and governor
runs compose, each adding its own decrements and its own elapsed time.
-/

namespace Sys2Proof.Machine

/-! ### The unknown word (R107) -/

/-- Settles O37. -/
theorem unknownWordOnlyAdvances : Obligations.UnknownWordOnlyAdvances := fun s w =>
  ⟨fun hnoop => ⟨_, exec_unknown_noop s w hnoop, rfl, rfl, (untouched_markUnknown s).setPc _⟩,
    exec_unknown_refuse s w⟩

/-! ### One governor run (R116) -/

/-- Settles O14: the two cases of a run are the two equations of `State.governed`. -/
theorem governorRunsExactly : Obligations.GovernorRunsExactly := by
  refine fun now s => ⟨governor_back, fun hclock => ⟨_, governor_ok hclock, State.governed_lastMs s now,
    fun htick => ?tick, fun hquiet => ?quiet, ?frame⟩⟩
  case tick =>
    rw [State.governed_tick s now htick]
    exact ⟨Nat.sub_add_cancel htick, decay_toNat s.dt, decay_toNat s.st⟩
  case quiet =>
    rw [State.governed_noTick s now hquiet]
    exact ⟨rfl, rfl, rfl⟩
  case frame =>
    rw [State.governed_eq]
    simp

/-! ### Runs of the governor (R117) -/

/-- From s to t, k decrements account for the elapsed time: each timer fell by k, never below 0, and what ACC gained
is 10 units a millisecond less 166 units a decrement. -/
def Accounted (k : Nat) (s t : State) : Prop :=
  s.lastMs ≤ t.lastMs ∧ t.acc + 166 * k = s.acc + 10 * (t.lastMs - s.lastMs) ∧
  t.dt.toNat = s.dt.toNat - k ∧ t.st.toNat = s.st.toNat - k

theorem Accounted.refl (s : State) : Accounted 0 s s := by simp [Accounted]

theorem Accounted.trans {j k : Nat} {s t u : State} (hst : Accounted j s t) (htu : Accounted k t u) :
    Accounted (j + k) s u := by
  obtain ⟨hclock, hacc, hdt, hsnd⟩ := hst
  obtain ⟨hclock', hacc', hdt', hsnd'⟩ := htu
  exact ⟨hclock.trans hclock', by omega, by omega, by omega⟩

/-- From ACC = 0 the decrements are at most the elapsed ticks. -/
theorem Accounted.le_elapsed {k : Nat} {s t : State} (h : Accounted k s t) (hzero : s.acc = 0) :
    k ≤ 10 * (t.lastMs - s.lastMs) / 166 := by
  obtain ⟨-, hacc, -, -⟩ := h
  omega

/-- One run with a clock that has not gone back decrements once or not at all. -/
theorem governed_accounted (s : State) {n : Nat} (hclock : s.lastMs ≤ n) :
    ∃ k ≤ 1, Accounted k s (s.governed n) := by
  by_cases htick : 166 ≤ s.acc + 10 * (n - s.lastMs)
  · rw [State.governed_tick s n htick]
    exact ⟨1, Nat.le_refl 1, hclock, Nat.sub_add_cancel htick, decay_toNat s.dt, decay_toNat s.st⟩
  · rw [State.governed_noTick s n (Nat.lt_of_not_le htick)]
    exact ⟨0, Nat.zero_le 1, hclock, rfl, rfl, rfl⟩

/-- If runs at n and then ns answer a next state, the clock had not gone back at n and the rest starts from the
governed state. -/
theorem governorRuns_cons_next {n : Nat} {ns : List Nat} {s t : State} (h : governorRuns (n :: ns) s = .next t) :
    s.lastMs ≤ n ∧ governorRuns ns (s.governed n) = .next t := by
  by_cases hclock : s.lastMs ≤ n
  · exact ⟨hclock, by simpa only [governorRuns, governor_ok hclock] using h⟩
  · simp only [governorRuns, governor_back (Nat.lt_of_not_le hclock)] at h
    cases h

theorem governorRuns_accounted {clock : List Nat} {s t : State} (h : governorRuns clock s = .next t) :
    ∃ k ≤ clock.length, Accounted k s t := by
  induction clock generalizing s with
  | nil => cases h; exact ⟨0, Nat.le_refl 0, Accounted.refl t⟩
  | cons n ns ih =>
    obtain ⟨hclock, hrest⟩ := governorRuns_cons_next h
    obtain ⟨j, hj, hfirst⟩ := governed_accounted s hclock
    obtain ⟨k, hk, hlater⟩ := ih hrest
    exact ⟨j + k, by rw [List.length_cons]; omega, hfirst.trans hlater⟩

/-- Settles O15, by the induction over the runs in `governorRuns_accounted`. -/
theorem decrementsNeverOutrunElapsedTime : Obligations.DecrementsNeverOutrunElapsedTime := by
  intro clock s t h
  obtain ⟨k, hk, haccount⟩ := governorRuns_accounted h
  have ⟨hclock, hacc, hdt, hst⟩ := haccount
  exact ⟨k, hk, hclock, hacc, hdt, hst, haccount.le_elapsed⟩

/-! ### The fault table (R109) -/

/-- The table's DATA_RANGE entry for an access of `len` bytes from `base`. -/
def dataRangeEntry (base len : Nat) : Option (FaultCode × Nat) :=
  (lowestOutside base len).map fun a => (.dataRange, a)

/-- An entry: some byte of the access lies above 0xFFF, and info is the lowest such address. -/
theorem dataRangeEntry_some {base len n : Nat} {c : FaultCode} (h : dataRangeEntry base len = some (c, n)) :
    0 < len ∧ 0x1000 < base + len ∧ c = .dataRange ∧ n = max base 0x1000 := by
  unfold dataRangeEntry lowestOutside at h
  split at h
  · cases h
  · cases h
    refine ⟨by omega, by omega, rfl, ?_⟩
    split <;> omega

/-- No entry: the access is empty or ends inside MEM. -/
theorem dataRangeEntry_none {base len : Nat} (h : dataRangeEntry base len = none) : len = 0 ∨ base + len ≤ 0x1000 := by
  unfold dataRangeEntry lowestOutside at h
  split at h
  · assumption
  · cases h

/-- No entry for an access that is not empty: its last byte lies inside MEM. -/
theorem dataRangeEntry_none_last {base len : Nat} (h : dataRangeEntry base (len + 1) = none) : base + len ≤ 0xFFF :=
  Nat.le_of_succ_le_succ ((dataRangeEntry_none h).resolve_left (Nat.succ_ne_zero len))

/-- No entry where the table has one condition: the condition fails. -/
theorem not_of_entry_none {p : Prop} [Decidable p] {entry : FaultCode × Nat}
    (h : (if p then some entry else none) = none) : ¬p :=
  fun hp => nomatch ite_eq_right_iff.1 h hp

/-- Where the table gives a fault, the instruction takes it. -/
theorem exec_of_faultCause {i : Instr} {s : State} {c : FaultCode} {n : Nat} (h : faultCause i s = some (c, n)) :
    exec i s = .next (s.takeFault c n) := by
  cases i
  case ret =>
    obtain ⟨hsp, ⟨⟩⟩ := Option.ite_none_right_eq_some.1 h
    exact exec_ret_fault s hsp
  case call nnn =>
    obtain ⟨hsp, ⟨⟩⟩ := Option.ite_none_right_eq_some.1 h
    exact exec_call_fault s nnn hsp.ge
  case skp x =>
    obtain ⟨hkey, ⟨⟩⟩ := Option.ite_none_right_eq_some.1 h
    exact exec_skp_fault s x hkey
  case sknp x =>
    obtain ⟨hkey, ⟨⟩⟩ := Option.ite_none_right_eq_some.1 h
    exact exec_sknp_fault s x hkey
  case drw x y len =>
    obtain ⟨hpos, hout, rfl, rfl⟩ := dataRangeEntry_some h
    exact exec_drw_fault s x y len hpos hout
  case ldB x =>
    obtain ⟨-, hout, rfl, rfl⟩ := dataRangeEntry_some h
    exact exec_ldB_fault s x (Nat.lt_of_succ_lt_succ hout)
  case ldMemVx x =>
    obtain ⟨-, hout, rfl, rfl⟩ := dataRangeEntry_some h
    exact exec_ldMemVx_fault s x (Nat.lt_of_succ_lt_succ hout)
  case ldVxMem x =>
    obtain ⟨-, hout, rfl, rfl⟩ := dataRangeEntry_some h
    exact exec_ldVxMem_fault s x (Nat.lt_of_succ_lt_succ hout)
  all_goals cases h

/-- The converse of the completing case of `exec_next`. -/
theorem exec_of_lawful {i : Instr} {s : State} (h : Lawful i s) : exec i s = .next (completed i s) := by
  cases i
  case ret =>
    obtain ⟨hpos, hle⟩ := h
    rw [exec_ret_ok s hpos hle]
    simp [completed, top?_eq s hle]
  case call nnn => exact exec_call_ok s nnn h
  case sneQ x y n => exact exec_sneQ_noop s x y n h
  case unknown w => exact exec_unknown_noop s w h
  case drw x y n => exact exec_drw_ok s x y n h
  case skp x => exact exec_skp_ok s x h
  case sknp x => exact exec_sknp_ok s x h
  case ldVxK x =>
    obtain ⟨k, hpick⟩ := h
    rw [exec_ldVxK_key s x k hpick]
    simp [completed, hpick]
  case ldB x => exact exec_ldB_ok s x h
  case ldMemVx x => exact exec_ldMemVx_ok s x h
  case ldVxMem x => exact exec_ldVxMem_ok s x h
  case seImm | sneImm | seReg | sneReg => exact skipIf_eq _ s
  all_goals rfl

/-- Where the table gives none, the instruction may complete, unless UNKNOWN_POLICY refuses it or it waits for a key. -/
theorem lawful_of_faultCause_none {i : Instr} {s : State} (hsp : s.sp.toNat ≤ 15) (h : faultCause i s = none) :
    Lawful i s ∨ (∃ r, exec i s = .refused r) ∨ ∃ x, exec i s = .next (s.setMode (.awaitingKey x)) := by
  cases i
  case ret => exact .inl ⟨not_of_entry_none h, hsp⟩
  case call nnn => exact .inl (Nat.lt_of_le_of_ne hsp (not_of_entry_none h))
  case skp x => exact .inl (Nat.le_of_not_lt (not_of_entry_none h))
  case sknp x => exact .inl (Nat.le_of_not_lt (not_of_entry_none h))
  case drw x y n => exact .inl (dataRangeEntry_none h)
  case ldB x => exact .inl (dataRangeEntry_none_last h)
  case ldMemVx x => exact .inl (dataRangeEntry_none_last h)
  case ldVxMem x => exact .inl (dataRangeEntry_none_last h)
  case sneQ x y n =>
    cases hp : s.params.unknownPolicy with
    | noop => exact .inl hp
    | refuse => exact .inr (.inl ⟨_, exec_sneQ_refuse s x y n hp⟩)
  case unknown w =>
    cases hp : s.params.unknownPolicy with
    | noop => exact .inl hp
    | refuse => exact .inr (.inl ⟨_, exec_unknown_refuse s w hp⟩)
  case ldVxK x =>
    cases hpick : s.keyPick? with
    | none => exact .inr (.inr ⟨x, exec_ldVxK_wait s x hpick⟩)
    | some k => exact .inl ⟨k, hpick⟩
  all_goals exact .inl trivial

/-- With a silent table MODE stays, or the core comes to wait for a key. -/
theorem exec_next_mode_of_faultCause_none {i : Instr} {s t : State} (hsp : s.sp.toNat ≤ 15)
    (hnone : faultCause i s = none) (hexec : exec i s = .next t) :
    t.mode = s.mode ∨ ∃ x, t.mode = .awaitingKey x := by
  obtain hlaw | ⟨r, hrefused⟩ | ⟨x, hwait⟩ := lawful_of_faultCause_none hsp hnone
  · cases (exec_of_lawful hlaw).symm.trans hexec
    exact .inl (completed_mode s)
  · cases hrefused.symm.trans hexec
  · cases hwait.symm.trans hexec
    exact .inr ⟨x, rfl⟩

/-- Settles O18: the table's entries are taken (`exec_of_faultCause`), elsewhere the core runs on or waits, and the
numbers are those of R109. -/
theorem instructionsFaultExactlyAsListed : Obligations.InstructionsFaultExactlyAsListed := by
  refine ⟨fun i s hsp => ⟨fun c n => exec_of_faultCause, fun hnone t c n hexec hrun hfault => ?silent⟩, ?numbers⟩
  case silent =>
    obtain hmode | ⟨x, hmode⟩ := exec_next_mode_of_faultCause_none hsp hnone hexec
    · cases hrun.symm.trans (hmode.symm.trans hfault)
    · cases hmode.symm.trans hfault
  case numbers =>
    intro m
    cases m with
    | faulted c n => cases c <;> rfl
    | running | awaitingKey x | stopped => rfl

end Sys2Proof.Machine
end

section
/-!
PROOF. The host's duty on the clock (spec/70_reset_and_hazards.md R125, spec/60_exceptions.md R116).
-/

namespace Sys2Proof.Machine

/-- Settles O60: in both modes a step tests the clock before it does anything else. -/
theorem backwardClockHasNoMove : Obligations.BackwardClockHasNoMove := by
  rintro s (hrun | hwait) hback
  · exact (step_running hrun).trans (withClock_back _ hback)
  · obtain ⟨x, hm⟩ := Mode.eq_awaitingKey hwait
    exact (step_awaiting hm).trans (withClock_back _ hback)

end Sys2Proof.Machine
end
